-- ==== Sys2Proof/Word.lean ====
section
/-! DEFINITION. The words of the hardware: bytes, 16-bit register values, and one pixel sample. -/

namespace Sys2Proof

/-- One byte: a colour channel (R5), a byte of the output (R44). -/
abbrev Byte := BitVec 8

/-- A value of `DIM_BITS` = 16 bits: a dimension register (R7), the DATA of a host word and RDATA (R60). -/
abbrev Word := BitVec 16

/-- One pixel sample, the 4-tuple (R, G, B, A) of 8-bit channel values (R5). -/
structure Sample where
  r : Byte
  g : Byte
  b : Byte
  a : Byte
deriving DecidableEq, Repr

end Sys2Proof
end

