-- ==== Sys2Proof/Syntax.lean ====
section
/-! DEFINITION. The operations: one constructor of `Instr` per row of spec/opcode_table.json (30_encoding.md R72). -/

namespace Sys2Proof

/-- The sixteen host-visible registers (R10), in the order of their numbers. -/
inductive Reg where
  | cmd | status | imgW | imgH | gw | gh | fmt | err
  | charY | charX | subY | subX | pixY | pixX | acc | cnt
deriving DecidableEq, Repr

/-- An operation of the block. Bits an encoding ignores are kept as operands, so that no bit of a word is dropped. -/
inductive Instr where
  /-- Write of 0 to CMD (R122). -/
  | nop
  /-- Write of 1 to CMD (R123). -/
  | start
  /-- Write of 2 to CMD (R124). -/
  | clear
  /-- Any other write to CMD (R64). -/
  | cmdReserved (data : Word)
  /-- WRREG to register 2 (R121). -/
  | wrImgW (v : Word)
  /-- WRREG to register 3 (R121). -/
  | wrImgH (v : Word)
  /-- WRREG to register 4 (R121). -/
  | wrGw (v : Word)
  /-- WRREG to register 5 (R121). -/
  | wrGh (v : Word)
  /-- WRREG, the general form (R121): after decoding, a write to a read-only register. -/
  | wrreg (n : Reg) (v : Word)
  /-- RDREG (R120); DATA is ignored on a read (R60). -/
  | rdreg (n : Reg) (data : Word)
  /-- An HT word with ZERO ≠ 0b000: not a transaction (R61). -/
  | htReserved (we : BitVec 1) (zero : BitVec 3) (reg : BitVec 4) (data : Word)
  /-- The sequencer's operation while STATE = RUN (R127). -/
  | step
  /-- The sequencer's operation in any other STATE `ss` (R128). -/
  | hold (ss : BitVec 2)
  /-- BP8: no bit presented (R108); BIT is ignored. -/
  | bpidle (bit : BitVec 1)
  /-- BP8: the next bit of the group is 0 (R105). -/
  | push0
  /-- BP8: the next bit of the group is 1 (R106). -/
  | push1
  /-- BP8: end of stream (R107); BIT is ignored. -/
  | flush (bit : BitVec 1)
  /-- BP8: FLUSH and VALID both 1 (R68). -/
  | bpwReserved (bit : BitVec 1)
  /-- The pure function BIN on one sample (R80). -/
  | bin (s : Sample)
  /-- The pure function COORD of the position (R90). -/
  | coord
  /-- NEXT, the increment of the position (R92). -/
  | next
  /-- Pseudo-operation: read STATUS until STATE ≠ RUN (R76). -/
  | wait
  /-- Pseudo-operation: write the geometry, START, WAIT (R76). -/
  | encode (w h gw gh : Word)
deriving DecidableEq, Repr

end Sys2Proof
end

