-- ==== Sys2Proof/WellFormed.lean ====
section
/-! DEFINITION. Which terms of `Instr` stand for an operation of the table: the general rows leave out the words that
a more specific row takes (30_encoding.md R72: "matched only when no more specific row matches"). -/

namespace Sys2Proof

/-- The four inputs of a call, the only registers a host write can change (R62). -/
def Reg.isInput : Reg → Bool
  | .imgW | .imgH | .gw | .gh => true
  | .cmd | .status | .fmt | .err | .charY | .charX | .subY | .subX | .pixY | .pixX | .acc | .cnt => false

/-- The checks: a reserved command is none of 0, 1, 2 (R64); the general WRREG names neither CMD nor one of the four
inputs, which have rows of their own; a reserved HT word has ZERO ≠ 0 (R61); HOLD's STATE is not RUN (R65). -/
def Instr.wellFormed : Instr → Bool
  | .cmdReserved data => decide (data ≠ 0#16) && decide (data ≠ 1#16) && decide (data ≠ 2#16)
  | .wrreg n _ => decide (n ≠ .cmd) && !n.isInput
  | .htReserved _ zero _ _ => decide (zero ≠ 0#3)
  | .hold ss => decide (ss ≠ 0b01#2)
  | .nop | .start | .clear | .wrImgW _ | .wrImgH _ | .wrGw _ | .wrGh _ | .rdreg _ _ | .step
  | .bpidle _ | .push0 | .push1 | .flush _ | .bpwReserved _ | .bin _ | .coord | .next | .wait
  | .encode _ _ _ _ => true

end Sys2Proof
end

