-- ==== Sys2Proof/Decode.lean ====
section
/-! DEFINITION. The decoder and the encoder (30_encoding.md). The block decodes in three places, so a word comes with
the port it stands at: HT (24 bits), SEQ (the 2-bit STATE), BPW (3 bits). -/

namespace Sys2Proof

/-- The three places where something is decoded (30_encoding.md, table of formats). -/
inductive Port where
  | ht
  | seq
  | bpw
deriving DecidableEq, Repr

/-- A word standing at a port. -/
inductive PortWord where
  | ht  (w : BitVec 24)
  | seq (w : BitVec 2)
  | bpw (w : BitVec 3)
deriving DecidableEq, Repr

/-- Why bytes are no word of a port. -/
inductive DecodeError where
  /-- Fewer bytes than the port's word takes. -/
  | truncated (p : Port)
  /-- A bit above the port's width is set. -/
  | strayBits (p : Port)
deriving DecidableEq, Repr

/-! ## Register numbers (R10) -/

/-- The register of a number (R10). -/
def Reg.ofNumber (n : BitVec 4) : Reg :=
  match n.toNat with
  | 0 => .cmd
  | 1 => .status
  | 2 => .imgW
  | 3 => .imgH
  | 4 => .gw
  | 5 => .gh
  | 6 => .fmt
  | 7 => .err
  | 8 => .charY
  | 9 => .charX
  | 10 => .subY
  | 11 => .subX
  | 12 => .pixY
  | 13 => .pixX
  | 14 => .acc
  | _ => .cnt

/-- The number of a register (R10). -/
def Reg.number : Reg → BitVec 4
  | .cmd => 0#4
  | .status => 1#4
  | .imgW => 2#4
  | .imgH => 3#4
  | .gw => 4#4
  | .gh => 5#4
  | .fmt => 6#4
  | .err => 7#4
  | .charY => 8#4
  | .charX => 9#4
  | .subY => 10#4
  | .subX => 11#4
  | .pixY => 12#4
  | .pixX => 13#4
  | .acc => 14#4
  | .cnt => 15#4

/-! ## Fields -/

/-- HT bit [23] (R60). -/
def htWe (w : BitVec 24) : BitVec 1 := w.extractLsb' 23 1
/-- HT bits [22:20] (R60). -/
def htZero (w : BitVec 24) : BitVec 3 := w.extractLsb' 20 3
/-- HT bits [19:16] (R60). -/
def htReg (w : BitVec 24) : BitVec 4 := w.extractLsb' 16 4
/-- HT bits [15:0] (R60). -/
def htData (w : BitVec 24) : Word := w.extractLsb' 0 16

/-- The HT word of its four fields (R60). -/
def htWord (we : BitVec 1) (zero : BitVec 3) (reg : BitVec 4) (data : Word) : BitVec 24 :=
  we ++ zero ++ reg ++ data

/-- BPW bit [2] (R67). -/
def bpwFlush (w : BitVec 3) : BitVec 1 := w.extractLsb' 2 1
/-- BPW bit [1] (R67). -/
def bpwValid (w : BitVec 3) : BitVec 1 := w.extractLsb' 1 1
/-- BPW bit [0] (R67). -/
def bpwBit (w : BitVec 3) : BitVec 1 := w.extractLsb' 0 1

/-- The BPW word {FLUSH, VALID, BIT} (R67). -/
def bpwWord (flush valid bit : BitVec 1) : BitVec 3 := flush ++ valid ++ bit

/-- The four channels of a 32-bit sample word S: S[7:0] = R, S[15:8] = G, S[23:16] = B, S[31:24] = A (R70). -/
def Sample.ofWord (s : BitVec 32) : Sample :=
  ⟨s.extractLsb' 0 8, s.extractLsb' 8 8, s.extractLsb' 16 8, s.extractLsb' 24 8⟩

/-- The sample word of four channels (R70). -/
def Sample.toWord (s : Sample) : BitVec 32 := s.a ++ s.b ++ s.g ++ s.r

/-! ## Decoding the words -/

/-- What a write to CMD commands (R63, R64). -/
def decodeCommand (data : Word) : Instr :=
  if data = 0#16 then .nop
  else if data = 1#16 then .start
  else if data = 2#16 then .clear
  else .cmdReserved data

/-- The operation of an HT word (R60 to R64, R72). Every word of 24 bits is one. -/
def decodeHt (w : BitVec 24) : Instr :=
  if htZero w ≠ 0#3 then .htReserved (htWe w) (htZero w) (htReg w) (htData w)
  else if htWe w = 0#1 then .rdreg (Reg.ofNumber (htReg w)) (htData w)
  else
    match Reg.ofNumber (htReg w) with
    | .cmd => decodeCommand (htData w)
    | .imgW => .wrImgW (htData w)
    | .imgH => .wrImgH (htData w)
    | .gw => .wrGw (htData w)
    | .gh => .wrGh (htData w)
    | .status => .wrreg .status (htData w)
    | .fmt => .wrreg .fmt (htData w)
    | .err => .wrreg .err (htData w)
    | .charY => .wrreg .charY (htData w)
    | .charX => .wrreg .charX (htData w)
    | .subY => .wrreg .subY (htData w)
    | .subX => .wrreg .subX (htData w)
    | .pixY => .wrreg .pixY (htData w)
    | .pixX => .wrreg .pixX (htData w)
    | .acc => .wrreg .acc (htData w)
    | .cnt => .wrreg .cnt (htData w)

/-- What the sequencer does in a STATE (R65). -/
def decodeSeq (w : BitVec 2) : Instr :=
  if w = 0b01#2 then .step else .hold w

/-- The operation of a BPW word (R67, R68). -/
def decodeBpw (w : BitVec 3) : Instr :=
  if bpwFlush w = 0#1 then
    if bpwValid w = 0#1 then .bpidle (bpwBit w)
    else if bpwBit w = 0#1 then .push0
    else .push1
  else if bpwValid w = 0#1 then .flush (bpwBit w)
  else .bpwReserved (bpwBit w)

/-- The operation of a word at its port. -/
def decodeWord : PortWord → Instr
  | .ht w => decodeHt w
  | .seq w => decodeSeq w
  | .bpw w => decodeBpw w

/-! ## Words as bytes -/

/-- How many bytes a port's word takes. -/
def Port.bytes : Port → Nat
  | .ht => 3
  | .seq => 1
  | .bpw => 1

/-- The port a word stands at. -/
def PortWord.port : PortWord → Port
  | .ht _ => .ht
  | .seq _ => .seq
  | .bpw _ => .bpw

/-- A word as bytes, the least significant byte first, unused high bits 0. DESIGN CHOICE, log 14: the spec carries a
word whole and gives it no byte order. Safe: no operation reads a word's bytes. -/
def PortWord.toBytes : PortWord → List Byte
  | .ht w => [w.extractLsb' 0 8, w.extractLsb' 8 8, w.extractLsb' 16 8]
  | .seq w => [w.zeroExtend 8]
  | .bpw w => [w.zeroExtend 8]

/-- The word of a port at the head of a list of bytes, and the bytes after it. Total: any bytes give a word or a
named rejection. -/
def readWord : Port → List Byte → Except DecodeError (PortWord × List Byte)
  | .ht, b0 :: b1 :: b2 :: rest => .ok (.ht (b2 ++ b1 ++ b0), rest)
  | .ht, [] => .error (.truncated .ht)
  | .ht, [_] => .error (.truncated .ht)
  | .ht, [_, _] => .error (.truncated .ht)
  | .seq, [] => .error (.truncated .seq)
  | .seq, b :: rest =>
    if b.extractLsb' 2 6 = 0#6 then .ok (.seq (b.extractLsb' 0 2), rest) else .error (.strayBits .seq)
  | .bpw, [] => .error (.truncated .bpw)
  | .bpw, b :: rest =>
    if b.extractLsb' 3 5 = 0#5 then .ok (.bpw (b.extractLsb' 0 3), rest) else .error (.strayBits .bpw)

/-- Decode the word of a port at the head of a list of bytes. -/
def decode (p : Port) (bs : List Byte) : Except DecodeError (Instr × List Byte) :=
  match readWord p bs with
  | .ok (w, rest) => .ok (decodeWord w, rest)
  | .error e => .error e

/-! ## Encoding -/

/-- The word of an operation (R60 to R68, the fixed words of 30_encoding.md section 1); none for the rows of formats
FN and PSEUDO, which have no bit pattern (R72). -/
def encode : Instr → Option PortWord
  | .nop => some (.ht (htWord 1#1 0#3 0#4 0x0000#16))
  | .start => some (.ht (htWord 1#1 0#3 0#4 0x0001#16))
  | .clear => some (.ht (htWord 1#1 0#3 0#4 0x0002#16))
  | .cmdReserved data => some (.ht (htWord 1#1 0#3 0#4 data))
  | .wrImgW v => some (.ht (htWord 1#1 0#3 2#4 v))
  | .wrImgH v => some (.ht (htWord 1#1 0#3 3#4 v))
  | .wrGw v => some (.ht (htWord 1#1 0#3 4#4 v))
  | .wrGh v => some (.ht (htWord 1#1 0#3 5#4 v))
  | .wrreg n v => some (.ht (htWord 1#1 0#3 n.number v))
  | .rdreg n data => some (.ht (htWord 0#1 0#3 n.number data))
  | .htReserved we zero reg data => some (.ht (htWord we zero reg data))
  | .step => some (.seq 0b01#2)
  | .hold ss => some (.seq ss)
  | .bpidle bit => some (.bpw (bpwWord 0#1 0#1 bit))
  | .push0 => some (.bpw (bpwWord 0#1 1#1 0#1))
  | .push1 => some (.bpw (bpwWord 0#1 1#1 1#1))
  | .flush bit => some (.bpw (bpwWord 1#1 0#1 bit))
  | .bpwReserved bit => some (.bpw (bpwWord 1#1 1#1 bit))
  | .bin _ => none
  | .coord => none
  | .next => none
  | .wait => none
  | .encode _ _ _ _ => none

/-! ## The opcode table's words -/

/-- The port a table word of `nbits` bits and value `w` stands at. A row of 24 bits is HT. A row of one byte is SEQ
or BPW, which both number their bits from 0: the byte 0x01, the table's STEP, is read at SEQ and every other byte at
BPW. DESIGN CHOICE, log 13: the machine itself never has this choice, since each port decodes only its own words. -/
def tablePort (nbits w : Nat) : Option Port :=
  match nbits with
  | 24 => some .ht
  | 2 => some .seq
  | 3 => some .bpw
  | 8 => if w = 1 then some .seq else some .bpw
  | _ => none

/-- A table word as the bytes of its port, the least significant first (log 14). -/
def tableBytes (n w : Nat) : List Byte :=
  (List.range n).map fun i => BitVec.ofNat 8 (w / 2 ^ (8 * i))

/-- The word a table row's bits stand for at its port; none where they are no word. -/
def tableWord (nbits w : Nat) : Option PortWord :=
  match tablePort nbits w with
  | none => none
  | some p =>
    if w < 2 ^ (8 * p.bytes) then
      match readWord p (tableBytes p.bytes w) with
      | .ok (pw, _) => some pw
      | .error _ => none
    else none

/-- The operation this decoder reads from a word of the opcode table. -/
def decodeTableWord (nbits w : Nat) : Option Instr :=
  match tableWord nbits w with
  | some pw =>
    match decode pw.port pw.toBytes with
    | .ok (i, _) => some i
    | .error _ => none
  | none => none

end Sys2Proof
end

