-- ==== Sys2Proof/Config.lean ====
section
/-! DEFINITION. What is fixed when the hardware is built (00_scope.md R4 to R7, section 4): the packing order, the
threshold rule, the padding bit, and the literals of the threshold. Never run-time state (R6). -/

namespace Sys2Proof

/-- Which bit of a byte the earliest bit of a group becomes (R6, R46). -/
inductive PackOrder where
  | lsbFirst
  | msbFirst
deriving DecidableEq, Repr

/-- The threshold rules the spec has a formula for: one (R6, R85). -/
inductive ThreshRule where
  | rgb3AlphaGate
deriving DecidableEq, Repr

/-- The build-time parameters. -/
structure Config where
  packOrder  : PackOrder
  threshRule : ThreshRule
  /-- `PAD_BIT`, the fill of a short final group (R111). -/
  padBit     : Bool
deriving DecidableEq, Repr

namespace Config

/-- This hardware's values: `LSB_FIRST`, `RGB3_ALPHA_GATE`, `PAD_BIT` = 0 (R6, R111, 92 last table).
DESIGN CHOICE of the spec (D1, D16), log 17: safe for the hardware the spec describes. -/
def hardware : Config := ⟨.lsbFirst, .rgb3AlphaGate, false⟩

/-- `SUM_DEN` = 255·3, the denominator of `value` (R80). -/
def sumDen : Nat := 255 * 3

/-- `VALUE_MIN` = 0.5 as a fraction: numerator (R80). -/
def valueMinNum : Nat := 1

/-- `VALUE_MIN` = 0.5 as a fraction: denominator (R80). -/
def valueMinDen : Nat := 2

/-- `ALPHA_MIN`: an A below it gives bit 0 (R80, R84). -/
def alphaMin : Nat := 128

/-- The hardwired register FMT (R15): bit 0 is the packing order (0 LSB first, 1 MSB first), bit 1 the threshold
rule (0 for the only rule). -/
def fmt (c : Config) : BitVec 2 :=
  match c.threshRule, c.packOrder with
  | .rgb3AlphaGate, .lsbFirst => 0b00#2
  | .rgb3AlphaGate, .msbFirst => 0b01#2

end Config

end Sys2Proof
end

