-- ==== Sys2Proof/Machine/State.lean ====
section
/-! DEFINITION. The state of the machine as plain data: the registers of 10_state.md R10, and beside them what the
environment keeps (the pixel space, the output, what was returned, what it does next). -/

namespace Sys2Proof.Machine

open Sys2Proof

/-- STATE, the field of STATUS (R12). -/
inductive CallState where
  /-- No call since reset or CLEAR. -/
  | idle
  /-- A call is in progress. -/
  | run
  /-- The last call completed. -/
  | done
  /-- The last START was rejected. -/
  | err
deriving DecidableEq, Repr

/-- The inputs of a call: IMG_W, IMG_H (R13), GW, GH (R14). -/
structure Geometry where
  imgW : Word
  imgH : Word
  gw   : Word
  gh   : Word
deriving DecidableEq, Repr

/-- The traversal position, outermost counter first (R16 to R19). -/
structure Position where
  charY : Word
  charX : Word
  subY  : Word
  subX  : Word
  pixY  : BitVec 3
  pixX  : BitVec 3
deriving DecidableEq, Repr

/-- The registers of BP8: ACC (R21) and CNT (R22). -/
structure Packer where
  acc : Byte
  cnt : BitVec 3
deriving DecidableEq, Repr

/-- Bytes by address, addresses strictly rising (`Memory.wf`). An address that is not listed holds nothing: the pixel
space does not have it (93 U7), log 4. -/
abbrev Memory := List Host.Cell

/-- What one of the three pure functions returned when it ran as an operation of its own (R72), log 7. -/
inductive FnResult where
  /-- BIN's bit (R80). -/
  | bit (b : Bool)
  /-- COORD's pair (px, py), naturals (R90, R8). -/
  | coord (px py : Nat)
  /-- NEXT's `last` (R92). -/
  | last (b : Bool)
deriving DecidableEq, Repr

/-- One thing that happens next, at a port of the block or to it (log 1). -/
inductive Event where
  /-- The host issues a transaction word (R60). -/
  | host (ht : BitVec 24)
  /-- The sequencer takes its turn (R65). -/
  | sequencer
  /-- A word is presented on BP8's port from outside (R67, 95 P9), log 9. -/
  | packer (bpw : BitVec 3)
  /-- An operation that no word selects: the rows of formats FN and PSEUDO (R72), log 8. -/
  | operation (i : Instr)
  /-- Reset (R160). -/
  | reset
deriving DecidableEq, Repr

/-- The machine. The first six fields are the block's registers (R10 says there is no other architectural state in
it); the last five are the environment's and the model's records. -/
structure State where
  /-- STATUS.STATE (R12). -/
  status   : CallState
  /-- IMG_W, IMG_H, GW, GH (R13, R14). -/
  geom     : Geometry
  /-- ERR[1:0], ERRCODE (R20). -/
  errCode  : BitVec 2
  /-- ERR[3:2], ERRINFO (R20). -/
  errInfo  : BitVec 2
  /-- CHAR_Y, CHAR_X, SUB_Y, SUB_X, PIX_Y, PIX_X (R16). -/
  pos      : Position
  /-- ACC, CNT (R21, R22). -/
  packer   : Packer
  /-- The pixel space PIX, in the environment (R25, R40), log 3. -/
  pixels   : Memory
  /-- The output stream OUT, kept by the environment, first byte first (R26), log 5. -/
  out      : List Byte
  /-- RDATA of the most recent RDREG (R60, R120); none before the first. The model's record, log 6. -/
  rdata    : Option Word
  /-- What the most recent BIN, COORD or NEXT operation returned; none before the first. The model's record, log 7. -/
  fnResult : Option FnResult
  /-- What happens next, first first; empty: the sequencer takes its turn. The model's own field, log 1. -/
  agenda   : List Event
deriving DecidableEq, Repr

/-- Why the machine stops. -/
inductive Fault where
  /-- Raised by STEP alone: PixRead of a coordinate for which the pixel space holds no whole sample. Stuck (93 U7): the
  read has no answer, "so the STEP has no step. Never a value". Safe: the model stops where the spec makes no claim. -/
  | pixelAbsent (px py : Nat)
deriving DecidableEq, Repr

/-- Why an operation has no meaning here. -/
inductive Refusal where
  /-- Raised by an arm of `exec` whose operation has no meaning yet: no arm now. Safe. -/
  | notModelled (mnemonic : String)
deriving DecidableEq, Repr

/-- The position every call starts at (R93) and that reset leaves (R30). -/
def Position.zero : Position := ⟨0#16, 0#16, 0#16, 0#16, 0#3, 0#3⟩

/-- An empty group: ACC = 0, CNT = 0 (R30, R112). -/
def Packer.empty : Packer := ⟨0#8, 0#3⟩

/-- All four inputs 0 (R30). -/
def Geometry.zero : Geometry := ⟨0#16, 0#16, 0#16, 0#16⟩

/-- Right after reset (R30, R160): STATE = IDLE, every register 0, OUT empty. The pixel space "holds whatever it
holds": here nothing. DESIGN CHOICE, log 22: nothing in the pixel space, no value returned yet, an empty agenda. -/
def State.reset : State where
  status   := .idle
  geom     := Geometry.zero
  errCode  := 0#2
  errInfo  := 0#2
  pos      := Position.zero
  packer   := Packer.empty
  pixels   := []
  out      := []
  rdata    := none
  fnResult := none
  agenda   := []

end Sys2Proof.Machine
end

