-- ==== Sys2Proof/Machine/Ops.lean ====
section
/-! DEFINITION. The named operations over the state: the pixel space, the output, the updates of each field, taking an
exception (R144) and leaving it (R124, R146), the start of a call (R31) and reset (R160). -/

namespace Sys2Proof.Machine

open Sys2Proof

/-! ## The pixel space -/

/-- The byte at an address; none where nothing is listed (log 4). -/
def Memory.read : Memory → Nat → Option Byte
  | [], _ => none
  | (k, v) :: m, a => if k = a then some v else Memory.read m a

/-- Put a byte at an address, keeping the addresses rising. -/
def Memory.write : Memory → Nat → Byte → Memory
  | [], a, b => [(a, b)]
  | (k, v) :: m, a, b =>
    if a < k then (a, b) :: (k, v) :: m
    else if a = k then (a, b) :: m
    else (k, v) :: Memory.write m a b

/-- The canonical form: addresses strictly rising. (No entry can equal what an unlisted address reads as, since that
is no value.) -/
def Memory.wf : Memory → Bool
  | [] => true
  | [_] => true
  | (a, _) :: (b, v) :: m => decide (a < b) && Memory.wf ((b, v) :: m)

/-- The address of lane `lane` of the sample at (px, py): the space is 65536 by 65536, each dimension being 16 bits
wide (R7, R40). DESIGN CHOICE, log 3: R55 leaves the linear address to the platform. Safe: rules use the pair. -/
def pixelKey (px py lane : Nat) : Nat := (py * 65536 + px) * 4 + lane

/-- PixRead(px, py) (R41): the whole sample, or nothing where the pixel space does not have it (93 U7). The bytes are
the lanes of the sample word S of R70, lane 0 the least significant. -/
def pixRead (m : Memory) (px py : Nat) : Option Sample :=
  if px < 65536 ∧ py < 65536 then
    match m.read (pixelKey px py 0), m.read (pixelKey px py 1), m.read (pixelKey px py 2),
        m.read (pixelKey px py 3) with
    | some b0, some b1, some b2, some b3 => some (Sample.ofWord (b3 ++ b2 ++ b1 ++ b0))
    | _, _, _, _ => none
  else none

/-- The environment presents a sample at (px, py) before a call (R162). No step of the machine does (R25), log 15. -/
def Memory.putSample (m : Memory) (px py : Nat) (s : Sample) : Memory :=
  (((m.write (pixelKey px py 0) (s.toWord.extractLsb' 0 8)).write
    (pixelKey px py 1) (s.toWord.extractLsb' 8 8)).write
    (pixelKey px py 2) (s.toWord.extractLsb' 16 8)).write
    (pixelKey px py 3) (s.toWord.extractLsb' 24 8)

/-! ## One update per field -/

/-- STATE <- c. -/
def State.setStatus (s : State) (c : CallState) : State := { s with status := c }

/-- The four inputs of a call. -/
def State.setGeom (s : State) (g : Geometry) : State := { s with geom := g }

/-- ERRCODE <- code; ERRINFO <- info. -/
def State.setErr (s : State) (code info : BitVec 2) : State := { s with errCode := code, errInfo := info }

/-- The six position registers: the spec's `pc <- target`. -/
def State.setPos (s : State) (p : Position) : State := { s with pos := p }

/-- ACC and CNT. -/
def State.setPacker (s : State) (p : Packer) : State := { s with packer := p }

/-- The pixel space, from outside (log 15). -/
def State.setPixels (s : State) (m : Memory) : State := { s with pixels := m }

/-- OUT <- []: a new stream (R26, R171). -/
def State.clearOut (s : State) : State := { s with out := [] }

/-- ByteEmit(v): OUT <- OUT ++ [v] (R44). -/
def State.byteEmit (s : State) (v : Byte) : State := { s with out := s.out ++ [v] }

/-- The value a read returns. -/
def State.setRdata (s : State) (v : Word) : State := { s with rdata := some v }

/-- What a function operation returns. -/
def State.setFnResult (s : State) (r : FnResult) : State := { s with fnResult := some r }

/-- What happens next. -/
def State.setAgenda (s : State) (es : List Event) : State := { s with agenda := es }

/-- BP8's answer (R67): when BYTE_VALID = 1 the byte is handed to ByteEmit. `none` is BYTE_VALID = 0. -/
def State.answer (s : State) : Option Byte → State
  | some v => s.byteEmit v
  | none => s

/-! ## Exceptions, calls, reset -/

/-- The two exceptions (R140). -/
inductive Exception where
  | cellsZero
  | geomMismatch
deriving DecidableEq, Repr

/-- ERRCODE of an exception (R20, R140). -/
def Exception.code : Exception → BitVec 2
  | .cellsZero => 1#2
  | .geomMismatch => 2#2

/-- Taking an exception, `raise X(info)` (R144): STATE <- ERR; ERRCODE <- the code; ERRINFO <- info, and nothing
more. There is no saved pc, no vector and no mode. -/
def State.raise (s : State) (x : Exception) (info : BitVec 2) : State :=
  (s.setErr x.code info).setStatus .err

/-- Leaving DONE or ERR without a new call (R124, R146): STATE <- IDLE; ERRCODE <- 0; ERRINFO <- 0. -/
def State.acknowledge (s : State) : State :=
  (s.setErr 0#2 0#2).setStatus .idle

/-- What START clears before anything else (R31, R123): OUT, the position, ACC, CNT, ERR. The inputs are kept. -/
def State.beginCall (s : State) : State :=
  (((s.clearOut.setPos Position.zero).setPacker Packer.empty).setErr 0#2 0#2)

/-- Reset from any state (R160): every register 0, STATE = IDLE, OUT empty; the pixel space is not affected. What the
environment has recorded and what it does next stay: DESIGN CHOICE, log 18. -/
def State.blockReset (s : State) : State :=
  (s.beginCall.setGeom Geometry.zero).setStatus .idle

end Sys2Proof.Machine
end

