-- ==== Sys2Proof/Machine/Flags.lean ====
section
/-! DEFINITION. Status: the STATE field's bits, the ERR register, ERRINFO, and the three level outputs. The block has no
condition codes and no flag that arithmetic sets (R23). -/

namespace Sys2Proof.Machine

open Sys2Proof

/-- The two bits of STATE (R12). They are also the SEQ word the sequencer decodes (R65). -/
def CallState.bits : CallState → BitVec 2
  | .idle => 0b00#2
  | .run => 0b01#2
  | .done => 0b10#2
  | .err => 0b11#2

/-- The STATE of two bits (R12): every value has a name. -/
def CallState.ofBits (b : BitVec 2) : CallState :=
  match b.toNat with
  | 0 => .idle
  | 1 => .run
  | 2 => .done
  | _ => .err

/-- ERRINFO = {height side, width side}: height in bit 3 of ERR, width in bit 2 (R20, R123). -/
def errInfoBits (height width : Bool) : BitVec 2 :=
  BitVec.ofBool height ++ BitVec.ofBool width

/-- The register ERR: ERRCODE in bits [1:0], ERRINFO in bits [3:2] (R20). -/
def State.errWord (s : State) : BitVec 4 := s.errInfo ++ s.errCode

/-- The output `busy` (R23). -/
def State.busy (s : State) : Bool := decide (s.status = .run)

/-- The output `done` (R23). -/
def State.done (s : State) : Bool := decide (s.status = .done)

/-- The output `err` (R23). -/
def State.err (s : State) : Bool := decide (s.status = .err)

end Sys2Proof.Machine
end

