-- ==== Sys2Proof/Machine/Operands.lean ====
section
/-! DEFINITION. The operand forms: a register read x[n] (R10, R120) and a register write x[n] <- v (R62, R121). -/

namespace Sys2Proof.Machine

open Sys2Proof

/-- x[n]: the value of register n zero-extended to 16 bits (R10). CMD reads 0 (R11); FMT is hardwired (R15). -/
def State.reg (s : State) : Reg → Word
  | .cmd => 0#16
  | .status => s.status.bits.zeroExtend 16
  | .imgW => s.geom.imgW
  | .imgH => s.geom.imgH
  | .gw => s.geom.gw
  | .gh => s.geom.gh
  | .fmt => Config.hardware.fmt.zeroExtend 16
  | .err => s.errWord.zeroExtend 16
  | .charY => s.pos.charY
  | .charX => s.pos.charX
  | .subY => s.pos.subY
  | .subX => s.pos.subX
  | .pixY => s.pos.pixY.zeroExtend 16
  | .pixX => s.pos.pixX.zeroExtend 16
  | .acc => s.packer.acc.zeroExtend 16
  | .cnt => s.packer.cnt.zeroExtend 16

/-- The geometry with one of the four inputs replaced; every other register number changes nothing (R62). -/
def Geometry.set (g : Geometry) (n : Reg) (v : Word) : Geometry :=
  match n with
  | .imgW => { g with imgW := v }
  | .imgH => { g with imgH := v }
  | .gw => { g with gw := v }
  | .gh => { g with gh := v }
  | .cmd | .status | .fmt | .err | .charY | .charX | .subY | .subX | .pixY | .pixX | .acc | .cnt => g

/-- A host write x[n] <- v for n ≠ 0 (R121): it takes effect only on the four inputs and only when STATE ≠ RUN;
every other write has no effect and records no error (R24). -/
def State.hostWrite (s : State) (n : Reg) (v : Word) : State :=
  if s.status = .run then s else s.setGeom (s.geom.set n v)

end Sys2Proof.Machine
end

