-- ==== Sys2Proof/Machine/HostPort.lean ====
section
/-! DEFINITION. The host operations (43_sequencer.md R120 to R124; reserved words 30_encoding.md R61, R64). -/

namespace Sys2Proof.Machine

open Sys2Proof

/-- RDREG n (R120): RDATA <- x[n]; nothing else. DATA is ignored (R60). -/
def execRdreg (n : Reg) (_data : Word) (s : State) : Host.Outcome State Fault Refusal :=
  .next (s.setRdata (s.reg n))

/-- WRREG n, v (R121), every n. -/
def execWrreg (n : Reg) (v : Word) (s : State) : Host.Outcome State Fault Refusal := .next (s.hostWrite n v)

/-- WRREG to IMG_W (R121). -/
def execWrImgW (v : Word) (s : State) : Host.Outcome State Fault Refusal := .next (s.hostWrite .imgW v)

/-- WRREG to IMG_H (R121). -/
def execWrImgH (v : Word) (s : State) : Host.Outcome State Fault Refusal := .next (s.hostWrite .imgH v)

/-- WRREG to GW (R121). -/
def execWrGw (v : Word) (s : State) : Host.Outcome State Fault Refusal := .next (s.hostWrite .gw v)

/-- WRREG to GH (R121). -/
def execWrGh (v : Word) (s : State) : Host.Outcome State Fault Refusal := .next (s.hostWrite .gh v)

/-- NOP (R122): nothing. -/
def execNop (s : State) : Host.Outcome State Fault Refusal := .next s

/-- A reserved command (R64): the hardware treats it as NOP. log 12. -/
def execCmdReserved (_data : Word) (s : State) : Host.Outcome State Fault Refusal := .next s

/-- An HT word with ZERO ≠ 0 (R61): not a transaction; no state changes and no value is returned. log 12, log 20. -/
def execHtReserved (_we : BitVec 1) (_zero : BitVec 3) (_reg : BitVec 4) (_data : Word) (s : State) :
    Host.Outcome State Fault Refusal := .next s

/-- A dimension does not tile: it is no multiple of 8·cells, over the naturals (R123, R142). Used for cells ≥ 1. -/
def doesNotTile (dim cells : Word) : Bool := decide (dim.toNat % (8 * cells.toNat) ≠ 0)

/-- START's check of the geometry, and what follows (R123): CELLS_ZERO first (R143), then GEOM_MISMATCH, then the
empty sheet, else RUN. -/
def State.checkGeometry (s : State) : State :=
  if s.geom.gw = 0#16 ∨ s.geom.gh = 0#16 then
    s.raise .cellsZero (errInfoBits (decide (s.geom.gh = 0#16)) (decide (s.geom.gw = 0#16)))
  else if doesNotTile s.geom.imgW s.geom.gw ∨ doesNotTile s.geom.imgH s.geom.gh then
    s.raise .geomMismatch (errInfoBits (doesNotTile s.geom.imgH s.geom.gh) (doesNotTile s.geom.imgW s.geom.gw))
  else if s.geom.imgW = 0#16 ∨ s.geom.imgH = 0#16 then s.setStatus .done
  else s.setStatus .run

/-- START (R123): ignored in RUN; otherwise the working state is cleared and the geometry is checked. -/
def execStart (s : State) : Host.Outcome State Fault Refusal :=
  if s.status = .run then .next s else .next s.beginCall.checkGeometry

/-- CLEAR (R124): from DONE or ERR to IDLE, ERR cleared; no effect in RUN and IDLE. -/
def execClear (s : State) : Host.Outcome State Fault Refusal :=
  if s.status = .done ∨ s.status = .err then .next s.acknowledge else .next s

end Sys2Proof.Machine
end

