-- ==== Sys2Proof/Machine/Pseudo.lean ====
section
/-! DEFINITION. The pseudo-operations WAIT and ENCODE (30_encoding.md R76), by their expansions. -/

namespace Sys2Proof.Machine

open Sys2Proof

/-- WAIT (R76): RD STATUS; while the value read has STATE = RUN, the sequencer takes a turn and WAIT goes on. One turn
between two reads: DESIGN CHOICE, log 10 (the spec says only that the sequencer takes steps between the reads). -/
def execWait (s : State) : Host.Outcome State Fault Refusal :=
  if s.status = .run then
    .next ((s.setRdata (s.reg .status)).setAgenda (.sequencer :: .operation .wait :: s.agenda))
  else .next (s.setRdata (s.reg .status))

/-- The expansion of `ENCODE w, h, gw, gh` (R76): WR IMG_W; WR IMG_H; WR GW; WR GH; START; WAIT, as host words
(R63, R75). -/
def encodeExpansion (w h gw gh : Word) : List Event :=
  [.host (htWord 1#1 0#3 2#4 w), .host (htWord 1#1 0#3 3#4 h), .host (htWord 1#1 0#3 4#4 gw),
   .host (htWord 1#1 0#3 5#4 gh), .host (htWord 1#1 0#3 0#4 0x0001#16), .operation .wait]

/-- ENCODE (R76): its expansion is what happens next. log 11. -/
def execEncode (w h gw gh : Word) (s : State) : Host.Outcome State Fault Refusal :=
  .next (s.setAgenda (encodeExpansion w h gw gh ++ s.agenda))

end Sys2Proof.Machine
end

