-- ==== Sys2Proof/Machine/Binarize.lean ====
section
/-! DEFINITION. The pixel thresholder BIN (40_binarize.md). -/

namespace Sys2Proof.Machine

open Sys2Proof

/-- `value < 0.5` (R80) with the exact division of R82 cleared: value = (R+G+B) / 765. -/
def belowValueMin (s : Sample) : Bool :=
  decide (Config.valueMinDen * (s.r.toNat + s.g.toNat + s.b.toNat) < Config.valueMinNum * Config.sumDen)

/-- BIN(R, G, B, A) (R80): bit 0 when `value < 0.5` or A < 128, otherwise bit 1. -/
def binarize (s : Sample) : Bool :=
  match Config.hardware.threshRule with
  | .rgb3AlphaGate => !(belowValueMin s || decide (s.a.toNat < Config.alphaMin))

/-- BIN as an operation of its own: it returns the bit and writes nothing of the block (R80), log 8. -/
def execBin (smp : Sample) (s : State) : Host.Outcome State Fault Refusal :=
  .next (s.setFnResult (.bit (binarize smp)))

end Sys2Proof.Machine
end

