-- ==== Sys2Proof/Machine/BitPacker.lean ====
section
/-! DEFINITION. The bit packer BP8 (42_bitpack.md): PUSH0, PUSH1, FLUSH, BPIDLE and the reserved port word. -/

namespace Sys2Proof.Machine

open Sys2Proof

/-- The position in the byte of the bit with index `i` of its group: i, or 7 − i under MSB_FIRST (R105, R110). -/
def bitPosition (o : PackOrder) (i : Nat) : Nat :=
  match o with
  | .lsbFirst => i
  | .msbFirst => 7 - i

/-- ACC[p] <- b (R105, R106). -/
def setBit (acc : Byte) (p : Nat) (b : Bool) : Byte :=
  if b then acc ||| (1#8 <<< p) else acc &&& ~~~(1#8 <<< p)

/-- PUSH of a bit (R105, R106): the packer after it and BP8's answer, `some` byte when the group is full. -/
def Packer.push (o : PackOrder) (b : Bool) (p : Packer) : Packer × Option Byte :=
  let acc := setBit p.acc (bitPosition o p.cnt.toNat) b
  if p.cnt = 7#3 then (Packer.empty, some acc) else (⟨acc, p.cnt + 1#3⟩, none)

/-- The bits j = n .. 7 of the group set to PAD_BIT, where `k` of them are left to set: j runs through the last `k`
places (R107). -/
def padFrom (o : PackOrder) (padBit : Bool) (acc : Byte) : Nat → Byte
  | 0 => acc
  | k + 1 => padFrom o padBit (setBit acc (bitPosition o (7 - k)) padBit) k

/-- FLUSH (R107): a partly filled group is padded and emitted; ACC and CNT become 0. -/
def Packer.flush (o : PackOrder) (padBit : Bool) (p : Packer) : Packer × Option Byte :=
  if p.cnt = 0#3 then (Packer.empty, none)
  else (Packer.empty, some (padFrom o padBit p.acc (8 - p.cnt.toNat)))

/-- PUSH on the machine: BP8's registers and its answer (R67). -/
def State.push (s : State) (b : Bool) : State :=
  (s.setPacker (s.packer.push Config.hardware.packOrder b).1).answer
    (s.packer.push Config.hardware.packOrder b).2

/-- FLUSH on the machine: BP8's registers and its answer (R67). -/
def State.flush (s : State) : State :=
  (s.setPacker (s.packer.flush Config.hardware.packOrder Config.hardware.padBit).1).answer
    (s.packer.flush Config.hardware.packOrder Config.hardware.padBit).2

/-- PUSH0 (R105). -/
def execPush0 (s : State) : Host.Outcome State Fault Refusal := .next (s.push false)

/-- PUSH1 (R106). -/
def execPush1 (s : State) : Host.Outcome State Fault Refusal := .next (s.push true)

/-- FLUSH (R107); BIT is ignored. -/
def execFlush (_bit : BitVec 1) (s : State) : Host.Outcome State Fault Refusal := .next s.flush

/-- BPIDLE (R108): nothing changes and no byte is produced; BIT is ignored. -/
def execBpidle (_bit : BitVec 1) (s : State) : Host.Outcome State Fault Refusal := .next s

/-- FLUSH and VALID both 1 (R68): as BPIDLE. log 12. -/
def execBpwReserved (_bit : BitVec 1) (s : State) : Host.Outcome State Fault Refusal := .next s

end Sys2Proof.Machine
end

