-- ==== Sys2Proof/Machine/Traverse.lean ====
section
/-! DEFINITION. The cell traversal: COORD and NEXT (41_traverse.md). The 8 is CELL_PX, which is not configurable (R4). -/

namespace Sys2Proof.Machine

open Sys2Proof

/-- px = CHAR_X + SUB_X * 8 + PIX_X over the naturals (R90, R8). -/
def Position.px (p : Position) : Nat := p.charX.toNat + p.subX.toNat * 8 + p.pixX.toNat

/-- py = CHAR_Y + SUB_Y * 8 + PIX_Y over the naturals (R90, R8). -/
def Position.py (p : Position) : Nat := p.charY.toNat + p.subY.toNat * 8 + p.pixY.toNat

/-- NEXT (R92): the six-digit mixed-radix increment and `last`. The tests are on naturals, so no sum wraps (R8). -/
def Position.advance (g : Geometry) (p : Position) : Position × Bool :=
  if p.pixX.toNat < 7 then ({ p with pixX := p.pixX + 1#3 }, false)
  else
    let p := { p with pixX := 0#3 }
    if p.pixY.toNat < 7 then ({ p with pixY := p.pixY + 1#3 }, false)
    else
      let p := { p with pixY := 0#3 }
      if p.subX.toNat + 1 < g.gw.toNat then ({ p with subX := BitVec.ofNat 16 (p.subX.toNat + 1) }, false)
      else
        let p := { p with subX := 0#16 }
        if p.subY.toNat + 1 < g.gh.toNat then ({ p with subY := BitVec.ofNat 16 (p.subY.toNat + 1) }, false)
        else
          let p := { p with subY := 0#16 }
          if p.charX.toNat + 8 * g.gw.toNat < g.imgW.toNat then
            ({ p with charX := BitVec.ofNat 16 (p.charX.toNat + 8 * g.gw.toNat) }, false)
          else
            let p := { p with charX := 0#16 }
            if p.charY.toNat + 8 * g.gh.toNat < g.imgH.toNat then
              ({ p with charY := BitVec.ofNat 16 (p.charY.toNat + 8 * g.gh.toNat) }, false)
            else ({ p with charY := 0#16 }, true)

/-- COORD as an operation of its own: it returns (px, py) and writes nothing of the block (R90), log 8. -/
def execCoord (s : State) : Host.Outcome State Fault Refusal :=
  .next (s.setFnResult (.coord s.pos.px s.pos.py))

/-- NEXT as an operation of its own: it advances the position and returns `last` (R92), log 8. -/
def execNext (s : State) : Host.Outcome State Fault Refusal :=
  .next ((s.setPos (s.pos.advance s.geom).1).setFnResult (.last (s.pos.advance s.geom).2))

end Sys2Proof.Machine
end

