-- ==== Sys2Proof/Machine/Sequencer.lean ====
section
/-! DEFINITION. The sequencer's operations STEP (R127) and HOLD (R128). -/

namespace Sys2Proof.Machine

open Sys2Proof

/-- What STEP does once PixRead has answered (R127): BIN, PUSH0 or PUSH1, NEXT, and on the last pixel FLUSH and
STATE <- DONE. -/
def State.processSample (s : State) (smp : Sample) : State :=
  let pushed := (s.push (binarize smp)).setPos (s.pos.advance s.geom).1
  if (s.pos.advance s.geom).2 then pushed.flush.setStatus .done else pushed

/-- STEP (R127): the pixel at COORD is read and processed. Stuck where the pixel space does not have it (93 U7). -/
def execStep (s : State) : Host.Outcome State Fault Refusal :=
  match pixRead s.pixels s.pos.px s.pos.py with
  | some smp => .next (s.processSample smp)
  | none => .fault (.pixelAbsent s.pos.px s.pos.py)

/-- HOLD (R128): nothing. -/
def execHold (_ss : BitVec 2) (s : State) : Host.Outcome State Fault Refusal := .next s

end Sys2Proof.Machine
end

