-- ==== Sys2Proof/Machine/Dispatch.lean ====
section
/-! DEFINITION. One arm per constructor of Instr. -/

namespace Sys2Proof.Machine

open Sys2Proof

def exec (i : Instr) (s : State) : Host.Outcome State Fault Refusal :=
  match i with
  | .nop => Sys2Proof.Machine.execNop s
  | .start => Sys2Proof.Machine.execStart s
  | .clear => Sys2Proof.Machine.execClear s
  | .cmdReserved data => Sys2Proof.Machine.execCmdReserved data s
  | .wrImgW v => Sys2Proof.Machine.execWrImgW v s
  | .wrImgH v => Sys2Proof.Machine.execWrImgH v s
  | .wrGw v => Sys2Proof.Machine.execWrGw v s
  | .wrGh v => Sys2Proof.Machine.execWrGh v s
  | .wrreg n v => Sys2Proof.Machine.execWrreg n v s
  | .rdreg n data => Sys2Proof.Machine.execRdreg n data s
  | .htReserved we zero reg data => Sys2Proof.Machine.execHtReserved we zero reg data s
  | .step => Sys2Proof.Machine.execStep s
  | .hold ss => Sys2Proof.Machine.execHold ss s
  | .bpidle bit => Sys2Proof.Machine.execBpidle bit s
  | .push0 => Sys2Proof.Machine.execPush0 s
  | .push1 => Sys2Proof.Machine.execPush1 s
  | .flush bit => Sys2Proof.Machine.execFlush bit s
  | .bpwReserved bit => Sys2Proof.Machine.execBpwReserved bit s
  | .bin smp => Sys2Proof.Machine.execBin smp s
  | .coord => Sys2Proof.Machine.execCoord s
  | .next => Sys2Proof.Machine.execNext s
  | .wait => Sys2Proof.Machine.execWait s
  | .encode w h gw gh => Sys2Proof.Machine.execEncode w h gw gh s

end Sys2Proof.Machine
end

