-- ==== Sys2Proof/Machine/Fetch.lean ====
section
/-! DEFINITION. Where the next operation comes from: the head of the agenda, decoded at its port; with an empty agenda
the sequencer's turn (log 1). And the placing of a word there. -/

namespace Sys2Proof.Machine

open Sys2Proof

/-- What a step is about to do. -/
inductive Next where
  | run (i : Instr)
  | reset
deriving DecidableEq, Repr

/-- The sequencer decodes nothing but STATE (R65). -/
def State.sequencerInstr (s : State) : Instr := decodeSeq s.status.bits

/-- What an event asks for in a state: the instruction its port decodes, or reset. -/
def Event.next (e : Event) (s : State) : Next :=
  match e with
  | .host w => .run (decodeHt w)
  | .sequencer => .run s.sequencerInstr
  | .packer w => .run (decodeBpw w)
  | .operation i => .run i
  | .reset => .reset

/-- What happens next, and the state with that taken off the agenda. -/
def fetch (s : State) : Next × State :=
  match s.agenda with
  | [] => (.run s.sequencerInstr, s)
  | e :: rest => (e.next s, s.setAgenda rest)

/-- STEP's operand: where the pixel space has no sample at COORD, one of zeros. Only for placing a word from outside
(`present`), as the operand words of a table word are zeros; log 19. -/
def State.withOperandSample (s : State) : State :=
  match pixRead s.pixels s.pos.px s.pos.py with
  | some _ => s
  | none => s.setPixels (s.pixels.putSample s.pos.px s.pos.py ⟨0#8, 0#8, 0#8, 0#8⟩)

/-- A word placed at its port so that it is what happens next. A SEQ word is the STATE field, so placing it sets STATE;
STEP, the word of RUN, also gets its operand. log 19. -/
def State.present (s : State) (pw : PortWord) : State :=
  match pw with
  | .ht w => s.setAgenda (.host w :: s.agenda)
  | .bpw w => s.setAgenda (.packer w :: s.agenda)
  | .seq w =>
    let s' := (s.setStatus (CallState.ofBits w)).setAgenda (.sequencer :: s.agenda)
    if w = 0b01#2 then s'.withOperandSample else s'

end Sys2Proof.Machine
end

