-- ==== Sys2Proof/Machine/Step.lean ====
section
/-! DEFINITION. One step of the machine: what the agenda says happens next, decoded at its port and run. -/

namespace Sys2Proof.Machine

open Sys2Proof

/-- One step. A host word, a word on BP8's port or a turn of the sequencer is decoded there and run; an operation that
no word selects is run; reset is R160. With an empty agenda the sequencer takes its turn. log 1. -/
def step (s : State) : Host.Outcome State Fault Refusal :=
  match fetch s with
  | (.run i, s') => exec i s'
  | (.reset, s') => .next s'.blockReset

/-- s with a word of the opcode table placed so that the very next step runs it (log 13, log 14, log 19). -/
def State.withFetchWord (s : State) (nbits w : Nat) : State :=
  match tableWord nbits w with
  | some pw => s.present pw
  | none => s

end Sys2Proof.Machine
end

