-- ==== Sys2Proof/Machine/Call.lean ====
section
/-! DEFINITION. The whole-call functions of the spec: PACK (R110), the bit index and its inverse (R95, R96), and ENCODE
(R135). No step uses them; claims compare the machine with them. -/

namespace Sys2Proof.Machine

open Sys2Proof

/-! ## PACK (R110) -/

/-- Bit `j` of a stream, PAD_BIT past its end (R110). -/
def streamBit (padBit : Bool) (bits : List Bool) (j : Nat) : Bool := bits.getD j padBit

/-- The weight of bit i of a group: 2^i, or 2^(7−i) under MSB_FIRST (R110). -/
def bitWeight (o : PackOrder) (i : Nat) : Nat := 2 ^ bitPosition o i

/-- Byte k of the packed stream: the sum over i = 0 .. 7 of bits[8k+i] times its weight (R110). -/
def packByte (o : PackOrder) (padBit : Bool) (bits : List Bool) (k : Nat) : Byte :=
  BitVec.ofNat 8 ((List.range 8).map fun i => (streamBit padBit bits (8 * k + i)).toNat * bitWeight o i).sum

/-- PACK(bits): ceil(N/8) bytes (R109, R110). -/
def pack (o : PackOrder) (padBit : Bool) (bits : List Bool) : List Byte :=
  (List.range ((bits.length + 7) / 8)).map (packByte o padBit bits)

/-! ## The bit index of a position (R95, R96) -/

/-- W, H, GW, GH as naturals (41_traverse.md, abbreviations). -/
structure Sheet where
  w  : Nat
  h  : Nat
  gw : Nat
  gh : Nat
deriving DecidableEq, Repr

/-- BW = 8·GW. -/
def Sheet.bw (t : Sheet) : Nat := 8 * t.gw
/-- BH = 8·GH. -/
def Sheet.bh (t : Sheet) : Nat := 8 * t.gh
/-- NBX = W div BW. -/
def Sheet.nbx (t : Sheet) : Nat := t.w / t.bw
/-- NBY = H div BH. -/
def Sheet.nby (t : Sheet) : Nat := t.h / t.bh

/-- The geometry that START accepts and that has pixels: GW, GH ≥ 1, W and H positive multiples of BW and BH (R48,
R123). -/
def Sheet.tiles (t : Sheet) : Bool :=
  decide (0 < t.gw) && decide (0 < t.gh) && decide (0 < t.w) && decide (0 < t.h) &&
    decide (t.w % t.bw = 0) && decide (t.h % t.bh = 0)

/-- The sheet of the four input registers. -/
def Geometry.sheet (g : Geometry) : Sheet := ⟨g.imgW.toNat, g.imgH.toNat, g.gw.toNat, g.gh.toNat⟩

/-- The six loop variables of R91 as naturals. -/
structure Loop where
  charY : Nat
  charX : Nat
  subY  : Nat
  subX  : Nat
  pixY  : Nat
  pixX  : Nat
deriving DecidableEq, Repr

/-- The position registers as the loop variables they hold (R16). -/
def Position.loop (p : Position) : Loop :=
  ⟨p.charY.toNat, p.charX.toNat, p.subY.toNat, p.subX.toNat, p.pixY.toNat, p.pixX.toNat⟩

/-- A position of the traversal: each counter in its range of R91. -/
def Loop.inSheet (t : Sheet) (l : Loop) : Bool :=
  decide (l.charY % t.bh = 0) && decide (l.charY < t.h) && decide (l.charX % t.bw = 0) && decide (l.charX < t.w) &&
    decide (l.subY < t.gh) && decide (l.subX < t.gw) && decide (l.pixY < 8) && decide (l.pixX < 8)

/-- The glyph index g (R95). -/
def Loop.glyphIndex (t : Sheet) (l : Loop) : Nat := l.charY / t.bh * t.nbx + l.charX / t.bw

/-- The cell index c in stream order (R95). -/
def Loop.cellIndex (t : Sheet) (l : Loop) : Nat := (l.glyphIndex t * t.gh + l.subY) * t.gw + l.subX

/-- The bit index n of a position (R95). -/
def Loop.bitIndex (t : Sheet) (l : Loop) : Nat := (l.cellIndex t * 8 + l.pixY) * 8 + l.pixX

/-- The position of a bit index (R95, the converse). -/
def loopOfIndex (t : Sheet) (n : Nat) : Loop where
  pixX := n % 8
  pixY := n / 8 % 8
  subX := n / 64 % t.gw
  subY := n / 64 / t.gw % t.gh
  charX := n / 64 / (t.gw * t.gh) % t.nbx * t.bw
  charY := n / 64 / (t.gw * t.gh) / t.nbx * t.bh

/-- What R92's pseudocode leaves in the position registers and returns: `(CHAR_Y, CHAR_X, SUB_Y, SUB_X, PIX_Y,
PIX_X)` and `last`, over the naturals. -/
def Loop.next (t : Sheet) (l : Loop) : Loop × Bool :=
  if l.pixX < 7 then ({ l with pixX := l.pixX + 1 }, false)
  else if l.pixY < 7 then ({ l with pixX := 0, pixY := l.pixY + 1 }, false)
  else if l.subX + 1 < t.gw then ({ l with pixX := 0, pixY := 0, subX := l.subX + 1 }, false)
  else if l.subY + 1 < t.gh then ({ l with pixX := 0, pixY := 0, subX := 0, subY := l.subY + 1 }, false)
  else if l.charX + 8 * t.gw < t.w then (⟨l.charY, l.charX + 8 * t.gw, 0, 0, 0, 0⟩, false)
  else if l.charY + 8 * t.gh < t.h then (⟨l.charY + 8 * t.gh, 0, 0, 0, 0, 0⟩, false)
  else (⟨0, 0, 0, 0, 0, 0⟩, true)

/-- COORD of the loop variables (R90). -/
def Loop.pixel (l : Loop) : Nat × Nat := (l.charX + l.subX * 8 + l.pixX, l.charY + l.subY * 8 + l.pixY)

/-- The position that visits a pixel (R96). -/
def loopOfPixel (t : Sheet) (px py : Nat) : Loop where
  charX := px / t.bw * t.bw
  subX := px % t.bw / 8
  pixX := px % 8
  charY := py / t.bh * t.bh
  subY := py % t.bh / 8
  pixY := py % 8

/-! ## ENCODE (R135) -/

/-- The loop nest of R91: every position in traversal order. -/
def traversal (t : Sheet) : List Loop :=
  ((List.range t.nby).map (· * t.bh)).flatMap fun charY =>
    ((List.range t.nbx).map (· * t.bw)).flatMap fun charX =>
      (List.range t.gh).flatMap fun subY =>
        (List.range t.gw).flatMap fun subX =>
          (List.range 8).flatMap fun pixY =>
            (List.range 8).map fun pixX => ⟨charY, charX, subY, subX, pixY, pixX⟩

/-- What ENCODE returns (R135). -/
inductive CallResult where
  | reject (x : Exception)
  | bytes (bs : List Byte)
deriving DecidableEq, Repr

/-- The Bit Stream of an image: one bit per visit, in visit order (R91). -/
def bitStream (img : Nat → Nat → Sample) (t : Sheet) : List Bool :=
  (traversal t).map fun l => binarize (img l.pixel.1 l.pixel.2)

/-- ENCODE(IMG, W, H, GW, GH) (R135). -/
def encodeCall (img : Nat → Nat → Sample) (t : Sheet) : CallResult :=
  if t.gw = 0 ∨ t.gh = 0 then .reject .cellsZero
  else if t.w % t.bw ≠ 0 ∨ t.h % t.bh ≠ 0 then .reject .geomMismatch
  else .bytes (pack Config.hardware.packOrder Config.hardware.padBit (bitStream img t))

end Sys2Proof.Machine
end

