-- ==== Sys2Proof/Safety.lean ====
section
/-! DEFINITION. The terms the claims are stated in: what a run is, what stays the same, which image is in the pixel
space, and the invariant of R28. -/

namespace Sys2Proof.Machine

open Sys2Proof

/-! ## Runs -/

/-- `k` steps of the machine. -/
def runFor (k : Nat) (s : State) : Host.Outcome State Fault Refusal := Host.Core.run core k s

/-- A run is safe when it meets neither a fault nor a refusal. -/
def SafeRun (k : Nat) (s : State) : Prop := ∃ t, runFor k s = .next t

/-- Operations one after the other, outside any agenda. -/
def execAll : List Instr → State → Host.Outcome State Fault Refusal
  | [], s => .next s
  | i :: is, s =>
    match exec i s with
    | .next t => execAll is t
    | .fault r => .fault r
    | .refused r => .refused r

/-! ## What stays the same -/

/-- Every register but those named reads as before. All the architectural state of the block is read so (R10). -/
def SameRegsBut (rs : List Reg) (s t : State) : Prop := ∀ r, r ∉ rs → t.reg r = s.reg r

/-- Every byte of the pixel space reads as before. -/
def SamePixels (s t : State) : Prop := ∀ a, t.pixels.read a = s.pixels.read a

/-- Every byte of the output, at every index, is as before. -/
def SameOut (s t : State) : Prop := ∀ k : Nat, t.out[k]? = s.out[k]?

/-- What was returned and what happens next are as before. -/
def SameRecords (s t : State) : Prop := t.rdata = s.rdata ∧ t.fnResult = s.fnResult ∧ t.agenda = s.agenda

/-- The registers of the position, ACC and CNT: the working state of a call (R31). -/
def workingRegs : List Reg := [.charY, .charX, .subY, .subX, .pixY, .pixX, .acc, .cnt]

/-! ## The image -/

/-- The pixel space holds the image `img` on a sheet of w by h pixels. -/
def HoldsImage (m : Memory) (img : Nat → Nat → Sample) (w h : Nat) : Prop :=
  ∀ px, px < w → ∀ py, py < h → pixRead m px py = some (img px py)

/-- The pixel space has every pixel of the sheet that IMG_W and IMG_H name: the host's duty of R173. -/
def State.imagePresent (s : State) : Prop :=
  ∀ px, px < s.geom.imgW.toNat → ∀ py, py < s.geom.imgH.toNat → (pixRead s.pixels px py).isSome = true

/-! ## The invariant -/

/-- What the host, the sequencer and the reset line do, as against a word driven on BP8's port from outside or a
function run on its own: "Inside the block only GBI drives this port" (R67). -/
def Event.blockOnly : Event → Bool
  | .host _ | .sequencer | .reset => true
  | .packer _ => false
  | .operation .wait => true
  | .operation (.encode _ _ _ _) => true
  | .operation .nop | .operation .start | .operation .clear | .operation (.cmdReserved _)
  | .operation (.wrImgW _) | .operation (.wrImgH _) | .operation (.wrGw _) | .operation (.wrGh _)
  | .operation (.wrreg _ _) | .operation (.rdreg _ _) | .operation (.htReserved _ _ _ _)
  | .operation .step | .operation (.hold _) | .operation (.bpidle _) | .operation .push0 | .operation .push1
  | .operation (.flush _) | .operation (.bpwReserved _) | .operation (.bin _) | .operation .coord
  | .operation .next => false

/-- BP8 and the position are driven by the block alone from here on. -/
def State.blockDriven (s : State) : Bool := s.agenda.all Event.blockOnly

/-- Positions of ACC that hold no bit yet are 0 (R21, R28): ACC[7:CNT] = 0 under LSB_FIRST. -/
def Packer.unfilledZero (o : PackOrder) (p : Packer) : Prop :=
  ∀ i, p.cnt.toNat ≤ i → i < 8 → p.acc.getLsbD (bitPosition o i) = false

/-- R28 while STATE = RUN, clause by clause. -/
structure State.RunInv (s : State) : Prop where
  gwPos        : 1 ≤ s.geom.gw.toNat
  ghPos        : 1 ≤ s.geom.gh.toNat
  wideEnough   : 8 * s.geom.gw.toNat ≤ s.geom.imgW.toNat
  tallEnough   : 8 * s.geom.gh.toNat ≤ s.geom.imgH.toNat
  widthTiles   : s.geom.imgW.toNat % (8 * s.geom.gw.toNat) = 0
  heightTiles  : s.geom.imgH.toNat % (8 * s.geom.gh.toNat) = 0
  charXAligned : s.pos.charX.toNat % (8 * s.geom.gw.toNat) = 0
  charXInside  : s.pos.charX.toNat < s.geom.imgW.toNat
  charYAligned : s.pos.charY.toNat % (8 * s.geom.gh.toNat) = 0
  charYInside  : s.pos.charY.toNat < s.geom.imgH.toNat
  subXInside   : s.pos.subX.toNat < s.geom.gw.toNat
  subYInside   : s.pos.subY.toNat < s.geom.gh.toNat
  cntIsPixX    : s.packer.cnt = s.pos.pixX
  accUnfilled  : s.packer.unfilledZero Config.hardware.packOrder
  noError      : s.errWord = 0#4
  outLength    : s.out.length = s.pos.loop.bitIndex s.geom.sheet / 8

/-- The invariant of the machine: R28, R20 (ERR is nonzero exactly when STATE is ERR, code 3 never), the canonical form
of the pixel space, and that only the block drives BP8 and the position. -/
structure State.Inv (s : State) : Prop where
  inRun      : s.status = .run → s.RunInv
  atRest     : s.status ≠ .run → s.pos = Position.zero ∧ s.packer = Packer.empty
  errExactly : s.errWord ≠ 0#4 ↔ s.status = .err
  errLegal   : s.errCode ≠ 3#2
  pixelsWf   : s.pixels.wf = true
  driven     : s.blockDriven = true

end Sys2Proof.Machine
end

