-- ==== Sys2Proof/Certificates/Slice0/Obligations.lean ====
section
/-! DEFINITION. The statements for the provers. Each formalises a rule of spec/ or follows from rules named in
OBLIGATIONS.json. -/

open Sys2Proof Sys2Proof.Machine

/-! ## Words for the statements -/

namespace Sys2Proof.Claims

/-- The value RDREG returns for each register, as R10 and R120 give it: STATE in bits [1:0] of STATUS, ERRCODE in
bits [1:0] and ERRINFO in bits [3:2] of ERR, CMD and FMT 0, every other register its own value. -/
def tableValue (s : State) : Reg → Nat
  | .cmd => 0
  | .status => match s.status with
    | .idle => 0
    | .run => 1
    | .done => 2
    | .err => 3
  | .imgW => s.geom.imgW.toNat
  | .imgH => s.geom.imgH.toNat
  | .gw => s.geom.gw.toNat
  | .gh => s.geom.gh.toNat
  | .fmt => 0
  | .err => s.errCode.toNat + 4 * s.errInfo.toNat
  | .charY => s.pos.charY.toNat
  | .charX => s.pos.charX.toNat
  | .subY => s.pos.subY.toNat
  | .subX => s.pos.subX.toNat
  | .pixY => s.pos.pixY.toNat
  | .pixX => s.pos.pixX.toNat
  | .acc => s.packer.acc.toNat
  | .cnt => s.packer.cnt.toNat

/-- x[n] as a number. -/
def val (s : State) (r : Reg) : Nat := (s.reg r).toNat

/-- 1 when the condition holds, else 0. -/
def one (p : Prop) [Decidable p] : Nat := if p then 1 else 0

/-- Nothing outside the named registers, the output, the pixel space and the records changes. -/
def OnlyRegs (rs : List Reg) (s t : State) : Prop :=
  SameRegsBut rs s t ∧ SamePixels s t ∧ SameOut s t ∧ SameRecords s t

/-- The host operations that write one of the four inputs, each with its register and the value written. -/
inductive InputWrite : Instr → Reg → Word → Prop
  | imgW (v) : InputWrite (.wrImgW v) .imgW v
  | imgH (v) : InputWrite (.wrImgH v) .imgH v
  | gw (v) : InputWrite (.wrGw v) .gw v
  | gh (v) : InputWrite (.wrGh v) .gh v
  | general (n v) : n.isInput = true → InputWrite (.wrreg n v) n v

/-- What host and sequencer do in a call of R137: host transactions and sequencer turns, in any order. -/
def hostOrSequencer : Event → Bool
  | .host _ | .sequencer => true
  | .packer _ | .operation _ | .reset => false

/-- A host word that is neither START nor CLEAR, or a sequencer turn. -/
def leavesDoneAlone : Event → Bool
  | .host w => decide (decodeHt w ≠ .start) && decide (decodeHt w ≠ .clear)
  | .sequencer => true
  | .packer _ | .operation _ | .reset => false

/-- A host word that is no START, or a sequencer turn. -/
def startsNothing : Event → Bool
  | .host w => decide (decodeHt w ≠ .start)
  | .sequencer => true
  | .packer _ | .operation _ | .reset => false

/-- How many turns the sequencer takes. -/
def turns (es : List Event) : Nat := es.count .sequencer

/-- The number of pixels of the sheet. -/
def pixelCount (s : State) : Nat := s.geom.imgW.toNat * s.geom.imgH.toNat

/-- The bit of a BP8 operation that pushes; none for one that only waits. -/
def pushedBit : Instr → Option Bool
  | .push0 => some false
  | .push1 => some true
  | _ => none

/-- PUSH0, PUSH1 and BPIDLE: what may stand before the FLUSH of a stream (R113). -/
def isPushOrIdle : Instr → Bool
  | .push0 | .push1 => true
  | .bpidle _ => true
  | _ => false

end Sys2Proof.Claims

open Sys2Proof.Claims

/-! ## Reset -/

/-- R30: after reset every register reads 0, STATE is IDLE and OUT is empty, so that a START issued before the geometry
is written is rejected with CELLS_ZERO. -/
def Obligations.ResetLeavesEveryRegisterZero : Prop :=
  (∀ r, val State.reset r = 0) ∧ State.reset.status = .idle ∧ State.reset.out = [] ∧
    ∃ t, exec .start State.reset = .next t ∧ val t .status = 3 ∧ val t .err = 0x000D ∧ t.out = []

/-- R160, R161, R12: reset from any state, a call in progress included, leaves every register 0, OUT empty and the
outputs 0; the pixel space is not affected; the sequencer then performs HOLD. That the records and the rest of the
agenda stay is the model's choice, log 18. -/
def Obligations.ResetFromAnyState : Prop :=
  ∀ s rest, s.agenda = .reset :: rest →
    ∃ t, step s = .next t ∧ (∀ r, val t r = 0) ∧ t.status = .idle ∧ t.out = [] ∧
      t.busy = false ∧ t.done = false ∧ t.err = false ∧ SamePixels s t ∧
      t.sequencerInstr = .hold 0b00#2 ∧
      t.agenda = rest ∧ t.rdata = s.rdata ∧ t.fnResult = s.fnResult

/-! ## Decoding -/

/-- What a step runs: the word at the head of the agenda, decoded at its port, on the state with that taken off; an
operation no word selects as it is; the sequencer's turn when the agenda is empty. Where that word (for the sequencer,
STATE's bits) is the one encode gives a well-formed operation, the step is that operation's exec. The agenda is the
model's own, log 1. -/
def Obligations.StepRunsTheDecodedOperation : Prop :=
  (∀ s w rest, s.agenda = .host w :: rest → step s = exec (decodeHt w) { s with agenda := rest }) ∧
  (∀ s w rest, s.agenda = .packer w :: rest → step s = exec (decodeBpw w) { s with agenda := rest }) ∧
  (∀ s i rest, s.agenda = .operation i :: rest → step s = exec i { s with agenda := rest }) ∧
  (∀ s rest, s.agenda = .sequencer :: rest →
    step s = exec (decodeSeq s.status.bits) { s with agenda := rest }) ∧
  (∀ s, s.agenda = [] → step s = exec (decodeSeq s.status.bits) s) ∧
  (∀ s w i rest, encode i = some (.ht w) → i.wellFormed = true → s.agenda = .host w :: rest →
    step s = exec i { s with agenda := rest }) ∧
  (∀ s w i rest, encode i = some (.bpw w) → i.wellFormed = true → s.agenda = .packer w :: rest →
    step s = exec i { s with agenda := rest }) ∧
  (∀ s i rest, encode i = some (.seq s.status.bits) → i.wellFormed = true → s.agenda = .sequencer :: rest →
    step s = exec i { s with agenda := rest }) ∧
  (∀ s i, encode i = some (.seq s.status.bits) → i.wellFormed = true → s.agenda = [] → step s = exec i s)

/-- R65: in RUN the sequencer's next step is STEP; in IDLE, DONE and ERR it performs HOLD, which changes nothing. STEP
takes its operands from registers. -/
def Obligations.SequencerStepsOnlyInRun : Prop :=
  ∀ s, s.agenda = [] →
    (val s .status = 0b01 → step s = exec .step s) ∧
    (val s .status ≠ 0b01 → step s = .next s ∧ ∀ ss, exec (.hold ss) s = .next s)

/-- R63 and the fixed words of 30_encoding.md: these words decode to these operations. -/
def Obligations.CommandWordsDecode : Prop :=
  decodeHt 0x800000#24 = .nop ∧ decodeHt 0x800001#24 = .start ∧ decodeHt 0x800002#24 = .clear ∧
  decodeHt 0x800003#24 = .cmdReserved 0x0003#16 ∧ decodeHt 0x800101#24 = .cmdReserved 0x0101#16 ∧
  decodeHt 0x820008#24 = .wrImgW 0x0008#16 ∧ decodeHt 0x840002#24 = .wrGw 0x0002#16 ∧
  decodeHt 0x8E00FF#24 = .wrreg .acc 0x00FF#16 ∧ decodeHt 0x070000#24 = .rdreg .err 0x0000#16 ∧
  decodeHt 0x900001#24 = .htReserved 1#1 1#3 0#4 0x0001#16 ∧
  decodeBpw 0b010#3 = .push0 ∧ decodeBpw 0b011#3 = .push1 ∧ decodeBpw 0b100#3 = .flush 0#1 ∧
  decodeSeq 0b01#2 = .step ∧ decodeSeq 0b11#2 = .hold 0b11#2

/-- Every well-formed operation that has an encoding (every row of formats HT, SEQ and BPW) comes back from its word,
with every operand, and from its word's bytes with whatever follows. -/
def Obligations.EncodedOperationsDecodeBack : Prop :=
  ∀ i, i.wellFormed = true →
    (encode i = none ↔ (∃ smp, i = .bin smp) ∨ i = .coord ∨ i = .next ∨ i = .wait ∨
      ∃ w h gw gh, i = .encode w h gw gh) ∧
    ∀ pw, encode i = some pw →
      decodeWord pw = i ∧ ∀ rest, decode pw.port (pw.toBytes ++ rest) = .ok (i, rest)

/-- Every word of a port is the word of exactly one well-formed operation, the one it decodes to: nothing else is
decoded anywhere (R72), and no word decodes to an ill-formed term (log 24). -/
def Obligations.EveryWordHasOneOperation : Prop :=
  ∀ pw, (decodeWord pw).wellFormed = true ∧
    ∀ i, i.wellFormed = true → (encode i = some pw ↔ i = decodeWord pw)

/-! ## Operations without effect -/

/-- R61: an HT word with ZERO ≠ 0b000 is not a transaction and changes no state. R61 defines no read value for it: that
the model returns none, so that the record of the latest read stays, is the model's choice, log 20. -/
def Obligations.ReservedHostWordIsNoTransaction : Prop :=
  (∀ we zero reg data s, exec (.htReserved we zero reg data) s = .next s) ∧
  ∀ s (w : BitVec 24) rest, w.extractLsb' 20 3 ≠ 0#3 → s.agenda = .host w :: rest →
    (∃ we zero reg data, decodeHt w = .htReserved we zero reg data) ∧
      step s = .next { s with agenda := rest }

/-- R122: NOP, 0x800000, changes nothing in any STATE, and reserved commands behave the same: a write to register 0 with
DATA[1:0] = 0b11 or any bit of DATA[15:2] set (R64). -/
def Obligations.NopAndReservedCommandsChangeNothing : Prop :=
  decodeHt 0x800000#24 = .nop ∧ (∀ s, exec .nop s = .next s) ∧ (∀ data s, exec (.cmdReserved data) s = .next s) ∧
  ∀ s (data : Word) rest, data.extractLsb' 0 2 = 0b11#2 ∨ data.extractLsb' 2 14 ≠ 0#14 →
    s.agenda = .host (htWord 1#1 0#3 0#4 data) :: rest →
    decodeHt (htWord 1#1 0#3 0#4 data) = .cmdReserved data ∧ step s = .next { s with agenda := rest }

/-- R108 and R68: BPIDLE changes nothing and produces no byte; FLUSH and VALID both 1 is treated as BPIDLE. -/
def Obligations.IdleAndReservedPortWordsChangeNothing : Prop :=
  (∀ bit s, exec (.bpidle bit) s = .next s ∧ exec (.bpwReserved bit) s = .next s) ∧
  ∀ s (w : BitVec 3) rest, s.agenda = .packer w :: rest →
    (w.getLsbD 2 = false ∧ w.getLsbD 1 = false → decodeBpw w = .bpidle (w.extractLsb' 0 1)) ∧
    (w.getLsbD 2 = true ∧ w.getLsbD 1 = true → decodeBpw w = .bpwReserved (w.extractLsb' 0 1)) ∧
    (w.getLsbD 2 = w.getLsbD 1 → step s = .next { s with agenda := rest })

/-! ## Registers -/

/-- R120 with the table of R10: RDREG n returns register n zero-extended, in every STATE, and changes nothing else;
DATA is ignored. It is the HT word with WE = 0, ZERO = 0, REG = n. -/
def Obligations.RdregReturnsTheRegister : Prop :=
  (∀ n data, decodeHt (htWord 0#1 0#3 n.number data) = .rdreg n data) ∧
  ∀ s n data, ∃ t v, exec (.rdreg n data) s = .next t ∧ t.rdata = some v ∧ v.toNat = tableValue s n ∧
    SameRegsBut [] s t ∧ SamePixels s t ∧ SameOut s t ∧ t.fnResult = s.fnResult ∧ t.agenda = s.agenda

/-- R121: outside RUN a write to IMG_W, IMG_H, GW or GH, in its own row or in the general form, makes the register hold
the value written, any value, and changes nothing else. -/
def Obligations.InputWriteTakesEffectOutsideRun : Prop :=
  ∀ s i n v, InputWrite i n v → s.status ≠ .run →
    ∃ t, exec i s = .next t ∧ t.reg n = v ∧ OnlyRegs [n] s t

/-- R24: a write to a read-only register (every register but CMD and the four inputs) changes nothing, a write to an
input while STATE = RUN changes nothing (R169), and a read is allowed in every state with no side effect. -/
def Obligations.OtherHostWritesHaveNoEffect : Prop :=
  (∀ s n v, n ≠ .cmd → n.isInput = false → exec (.wrreg n v) s = .next s) ∧
  (∀ s i n v, InputWrite i n v → s.status = .run → exec i s = .next s) ∧
  (∀ s n data, ∃ t, exec (.rdreg n data) s = .next t ∧ SameRegsBut [] s t ∧ SamePixels s t ∧ SameOut s t)

/-! ## START and CLEAR -/

/-- R123 (a), R170: START in RUN is ignored. -/
def Obligations.StartInRunIsDropped : Prop :=
  ∀ s, s.status = .run → exec .start s = .next s

/-- R123 for a geometry with GW, GH ≥ 1 whose sheet tiles: the working state, ERR and OUT are cleared; STATE becomes
DONE when the sheet is empty, otherwise RUN. -/
def Obligations.StartAcceptsASheetThatTiles : Prop :=
  ∀ s, s.status ≠ .run → 1 ≤ val s .gw → 1 ≤ val s .gh →
    val s .imgW % (8 * val s .gw) = 0 → val s .imgH % (8 * val s .gh) = 0 →
    ∃ t, exec .start s = .next t ∧
      val t .status = (if val s .imgW = 0 ∨ val s .imgH = 0 then 2 else 1) ∧
      val t .err = 0 ∧ (∀ r ∈ workingRegs, val t r = 0) ∧ t.out = [] ∧
      SameRegsBut (.status :: .err :: workingRegs) s t ∧ SamePixels s t ∧ SameRecords s t

/-- R141, R143, R144: a START with GW = 0 or GH = 0 outside RUN is rejected with code 1, ERR[2] = (GW = 0) and
ERR[3] = (GH = 0), whatever IMG_W and IMG_H are; OUT is empty, the working state 0, the inputs unchanged. -/
def Obligations.StartRejectsZeroCells : Prop :=
  ∀ s, s.status ≠ .run → val s .gw = 0 ∨ val s .gh = 0 →
    ∃ t, exec .start s = .next t ∧ val t .status = 3 ∧
      val t .err = 1 + 4 * one (val s .gw = 0) + 8 * one (val s .gh = 0) ∧
      (∀ r ∈ workingRegs, val t r = 0) ∧ t.out = [] ∧
      SameRegsBut (.status :: .err :: workingRegs) s t ∧ SamePixels s t ∧ SameRecords s t

/-- R142, R144: with GW, GH ≥ 1, a START outside RUN whose sheet does not tile is rejected with code 2, ERR[2] and
ERR[3] saying which side fails; OUT is empty, the working state 0, the inputs unchanged. -/
def Obligations.StartRejectsASheetThatDoesNotTile : Prop :=
  ∀ s, s.status ≠ .run → 1 ≤ val s .gw → 1 ≤ val s .gh →
    val s .imgW % (8 * val s .gw) ≠ 0 ∨ val s .imgH % (8 * val s .gh) ≠ 0 →
    ∃ t, exec .start s = .next t ∧ val t .status = 3 ∧
      val t .err = 2 + 4 * one (val s .imgW % (8 * val s .gw) ≠ 0) + 8 * one (val s .imgH % (8 * val s .gh) ≠ 0) ∧
      (∀ r ∈ workingRegs, val t r = 0) ∧ t.out = [] ∧
      SameRegsBut (.status :: .err :: workingRegs) s t ∧ SamePixels s t ∧ SameRecords s t

/-- R31, R3: what a START leaves depends on nothing but the four inputs: two blocks outside RUN with the same inputs
agree on every register and on OUT after it, whatever went before. -/
def Obligations.StartForgetsEarlierCalls : Prop :=
  ∀ s s' : State, s.status ≠ .run → s'.status ≠ .run → s.geom = s'.geom →
    ∃ t t', exec .start s = .next t ∧ exec .start s' = .next t' ∧ (∀ r, t.reg r = t'.reg r) ∧ t.out = t'.out ∧
      t.geom = s.geom

/-- R124: CLEAR, 0x800002, takes DONE and ERR to IDLE and clears ERR, and touches nothing else; in RUN and IDLE it has no
effect. -/
def Obligations.ClearAcknowledges : Prop :=
  decodeHt 0x800002#24 = .clear ∧
  (∀ s, s.status = .done ∨ s.status = .err →
    ∃ t, exec .clear s = .next t ∧ val t .status = 0 ∧ val t .err = 0 ∧ OnlyRegs [.status, .err] s t) ∧
  (∀ s, s.status = .run ∨ s.status = .idle → exec .clear s = .next s)

/-! ## The bit packer -/

/-- R105, R106 (LSB_FIRST): PUSH0 and PUSH1 put their bit at place CNT of the group and leave the other places; the
eighth emits the byte with that bit in it and leaves ACC = 0, CNT = 0; the others only count. -/
def Obligations.PushPlacesTheBit : Prop :=
  ∀ s i b, (i = .push0 ∧ b = false) ∨ (i = .push1 ∧ b = true) →
    ∃ t byte, exec i s = .next t ∧
      (∀ j, j < 8 → byte.getLsbD j = if j = val s .cnt then b else s.packer.acc.getLsbD j) ∧
      (val s .cnt < 7 → val t .cnt = val s .cnt + 1 ∧ t.packer.acc = byte ∧ SameOut s t) ∧
      (val s .cnt = 7 → val t .cnt = 0 ∧ val t .acc = 0 ∧ t.out = s.out ++ [byte]) ∧
      SameRegsBut [.acc, .cnt] s t ∧ SamePixels s t ∧ SameRecords s t

/-- R105, R106 under either packing order: the bit goes to place CNT, or 7 − CNT under MSB_FIRST. -/
def Obligations.PushUnderEitherOrder : Prop :=
  ∀ (o : PackOrder) (b : Bool) (p : Packer),
    let place := match o with
      | .lsbFirst => p.cnt.toNat
      | .msbFirst => 7 - p.cnt.toNat
    ∃ byte : Byte, (∀ j, j < 8 → byte.getLsbD j = if j = place then b else p.acc.getLsbD j) ∧
      (p.cnt ≠ 7#3 → (p.push o b).1 = ⟨byte, p.cnt + 1#3⟩ ∧ (p.push o b).2 = none) ∧
      (p.cnt = 7#3 → (p.push o b).1 = ⟨0#8, 0#3⟩ ∧ (p.push o b).2 = some byte)

/-- R107: FLUSH with a partly filled group sets the places from CNT on to PAD_BIT = 0 and emits the byte; with CNT = 0
it emits nothing; ACC and CNT become 0 either way. BIT is ignored. -/
def Obligations.FlushPadsAndEmits : Prop :=
  ∀ s bit, ∃ t, exec (.flush bit) s = .next t ∧ val t .acc = 0 ∧ val t .cnt = 0 ∧
    (val s .cnt = 0 → SameOut s t) ∧
    (val s .cnt ≠ 0 → ∃ byte : Byte, t.out = s.out ++ [byte] ∧
      ∀ j, j < 8 → byte.getLsbD j = (decide (j < val s .cnt) && s.packer.acc.getLsbD j)) ∧
    SameRegsBut [.acc, .cnt] s t ∧ SamePixels s t ∧ SameRecords s t

/-- R109, R110: PACK of N bits is ceil(N/8) bytes; bit i of byte k (bit 7 − i under MSB_FIRST) is bit 8k+i of the
stream, PAD_BIT past its end. -/
def Obligations.PackPlacesEveryBit : Prop :=
  ∀ (o : PackOrder) (pad : Bool) (bits : List Bool),
    (pack o pad bits).length = (bits.length + 7) / 8 ∧
    ∀ k i, k < (bits.length + 7) / 8 → i < 8 →
      ((pack o pad bits).getD k 0#8).getLsbD (match o with | .lsbFirst => i | .msbFirst => 7 - i) =
        if 8 * k + i < bits.length then bits.getD (8 * k + i) false else pad

/-- R113: from ACC = 0, CNT = 0, one PUSH for each bit of a sequence, with any number of BPIDLE in between, and then one
FLUSH emit exactly PACK of the sequence and leave ACC = 0, CNT = 0. -/
def Obligations.SerialPackingIsPack : Prop :=
  ∀ s ops bit, s.packer = ⟨0#8, 0#3⟩ → ops.all isPushOrIdle = true →
    ∃ t, execAll (ops ++ [.flush bit]) s = .next t ∧
      t.out = s.out ++ pack .lsbFirst false (ops.filterMap pushedBit) ∧ t.packer = ⟨0#8, 0#3⟩

/-- R114: the two packing orders give bytes that are bit-reversals of each other; groups of eight equal bits give the
same byte, 0xFF or 0x00, under either. -/
def Obligations.PackingOrdersAreBitReversals : Prop :=
  (∀ (pad : Bool) (bits : List Bool),
    pack .msbFirst pad bits = (pack .lsbFirst pad bits).map BitVec.reverse) ∧
  (∀ (o : PackOrder) (pad b : Bool) (n : Nat),
    pack o pad (List.replicate (8 * n) b) = List.replicate n (if b then 0xFF#8 else 0x00#8))

/-! ## The thresholder -/

/-- R80 with the exact division of R82: BIN's bit is 0 when (R+G+B)/(255·3) < 0.5 or A < 128, otherwise 1. It writes
nothing of the block. That an operation of its own records the bit is the model's choice, log 7. -/
def Obligations.BinIsTheThresholdRule : Prop :=
  ∀ (smp : Sample) (s : State), ∃ t b, exec (.bin smp) s = .next t ∧ t.fnResult = some (.bit b) ∧
    (b = false ↔
      ((smp.r.toNat + smp.g.toNat + smp.b.toNat : ℚ) / (255 * 3) < 1 / 2 ∨ (smp.a.toNat : ℚ) < 128)) ∧
    SameRegsBut [] s t ∧ SamePixels s t ∧ SameOut s t ∧ t.rdata = s.rdata ∧ t.agenda = s.agenda

/-- R81, R84: with S = R + G + B the bit is 1 exactly when S ≥ 383 and A ≥ 128; no S makes value equal to 0.5, and an
A below 128 gives bit 0 whatever the colour. -/
def Obligations.BinIntegerForm : Prop :=
  ∀ smp : Sample,
    (binarize smp = true ↔ 383 ≤ smp.r.toNat + smp.g.toNat + smp.b.toNat ∧ 128 ≤ smp.a.toNat) ∧
    ((smp.r.toNat + smp.g.toNat + smp.b.toNat : ℚ) / 765 ≠ 1 / 2) ∧
    (smp.a.toNat < 128 → binarize smp = false)

/-! ## The traversal -/

/-- R90: COORD returns (CHAR_X + SUB_X·8 + PIX_X, CHAR_Y + SUB_Y·8 + PIX_Y) and writes nothing of the block. That an
operation of its own records the pair is the model's choice, log 7. -/
def Obligations.CoordReturnsThePixel : Prop :=
  ∀ s, ∃ t, exec .coord s = .next t ∧
    t.fnResult = some (.coord (val s .charX + val s .subX * 8 + val s .pixX)
      (val s .charY + val s .subY * 8 + val s .pixY)) ∧
    SameRegsBut [] s t ∧ SamePixels s t ∧ SameOut s t ∧ t.rdata = s.rdata ∧ t.agenda = s.agenda

/-- R92 in every state: NEXT leaves in the position registers what the carry chain gives over the naturals, and returns
`last`; nothing else of the block changes. That an operation of its own records `last` is the model's choice, log 7. -/
def Obligations.NextFollowsTheCarryChain : Prop :=
  ∀ s, ∃ t, exec .next s = .next t ∧
    t.pos.loop = (s.pos.loop.next s.geom.sheet).1 ∧
    t.fnResult = some (.last (s.pos.loop.next s.geom.sheet).2) ∧
    SameRegsBut [.charY, .charX, .subY, .subX, .pixY, .pixX] s t ∧ SamePixels s t ∧ SameOut s t ∧
    t.rdata = s.rdata ∧ t.agenda = s.agenda

/-- R92, R95: on a sheet that tiles, NEXT takes a position of the traversal to the one with the next bit index; it
returns true exactly at the last pixel, and then the position is all zeros. -/
def Obligations.NextIsTheSuccessor : Prop :=
  ∀ (g : Geometry) (p : Position), g.sheet.tiles = true → p.loop.inSheet g.sheet = true →
    ((p.advance g).2 = false → (p.advance g).1.loop.inSheet g.sheet = true ∧
      (p.advance g).1.loop.bitIndex g.sheet = p.loop.bitIndex g.sheet + 1) ∧
    ((p.advance g).2 = true ↔ p.loop.bitIndex g.sheet + 1 = g.sheet.w * g.sheet.h) ∧
    ((p.advance g).2 = true → (p.advance g).1 = Position.zero)

/-- R95: position and bit index determine each other: on a sheet that tiles the two formulas are inverse, between the
positions of the traversal and the numbers below W·H. -/
def Obligations.BitIndexAndPositionAreInverse : Prop :=
  ∀ t : Sheet, t.tiles = true →
    (∀ l : Loop, l.inSheet t = true → l.bitIndex t < t.w * t.h ∧ loopOfIndex t (l.bitIndex t) = l) ∧
    (∀ n, n < t.w * t.h → (loopOfIndex t n).inSheet t = true ∧ (loopOfIndex t n).bitIndex t = n)

/-- R96: the traversal is a bijection between positions and pixels of the sheet: every pixel is visited by the position
the formulas give and by no other. -/
def Obligations.EveryPixelIsVisitedOnce : Prop :=
  ∀ t : Sheet, t.tiles = true →
    (∀ l : Loop, l.inSheet t = true → l.pixel.1 < t.w ∧ l.pixel.2 < t.h) ∧
    ∀ px py, px < t.w → py < t.h →
      ∀ l : Loop, (l.inSheet t = true ∧ l.pixel = (px, py)) ↔ l = loopOfPixel t px py

/-- R91 against R95: the loop nest visits, in order, the positions of bit indices 0, 1, ..., W·H − 1. -/
def Obligations.LoopNestIsTheClosedForm : Prop :=
  ∀ t : Sheet, t.tiles = true → traversal t = (List.range (t.w * t.h)).map (loopOfIndex t)

/-- R97, R98: the pixel with position l is bit PIX_X of byte c·8 + PIX_Y, and glyph g has the bytes from 8·GW·GH·g up to
8·GW·GH·(g+1) − 1. -/
def Obligations.PixelsByteAndGlyph : Prop :=
  ∀ (t : Sheet) (l : Loop), t.tiles = true → l.inSheet t = true →
    l.bitIndex t / 8 = l.cellIndex t * 8 + l.pixY ∧ l.bitIndex t % 8 = l.pixX ∧
    8 * t.gw * t.gh * l.glyphIndex t ≤ l.bitIndex t / 8 ∧
    l.bitIndex t / 8 < 8 * t.gw * t.gh * (l.glyphIndex t + 1) ∧ l.glyphIndex t < t.nbx * t.nby

/-- R101: with GH = 1, or with the glyph block as wide as the sheet, every image gives the stream of GW = GH = 1; with
GH ≥ 2 and NBX ≥ 2 some image does not. -/
def Obligations.GeometriesWithTheSameStream : Prop :=
  ∀ t : Sheet, t.tiles = true →
    (t.gh = 1 ∨ t.nbx = 1 → ∀ img, bitStream img t = bitStream img ⟨t.w, t.h, 1, 1⟩) ∧
    (2 ≤ t.gh → 2 ≤ t.nbx → ∃ img, bitStream img t ≠ bitStream img ⟨t.w, t.h, 1, 1⟩)

/-! ## STEP -/

/-- R127: STEP with the pixel at COORD present is PUSH0 or PUSH1 of that sample's BIN, then NEXT, then, on the last
pixel, FLUSH and STATE <- DONE. (NEXT run on its own also records `last`, log 7; STEP does not.) -/
def Obligations.StepIsPushNextFlush : Prop :=
  ∀ s smp, pixRead s.pixels (val s .charX + val s .subX * 8 + val s .pixX)
      (val s .charY + val s .subY * 8 + val s .pixY) = some smp →
    ∃ s1 s2 last, exec (if binarize smp then .push1 else .push0) s = .next s1 ∧ exec .next s1 = .next s2 ∧
      s2.fnResult = some (.last last) ∧
      (last = false → exec .step s = .next { s2 with fnResult := s.fnResult }) ∧
      (last = true → ∃ s3, exec (.flush 0#1) s2 = .next s3 ∧
        exec .step s = .next { s3 with status := .done, fnResult := s.fnResult })

/-- The frame of STEP: only the position, ACC, CNT, STATUS and at most one byte at the end of OUT change (R127, R56). -/
def Obligations.StepFrame : Prop :=
  ∀ s smp, pixRead s.pixels s.pos.px s.pos.py = some smp →
    ∃ t, exec .step s = .next t ∧ SameRegsBut (.status :: workingRegs) s t ∧
      (t.out = s.out ∨ ∃ v, t.out = s.out ++ [v]) ∧ (t.status = s.status ∨ t.status = .done) ∧
      SamePixels s t ∧ SameRecords s t

/-- 93 U7: STEP is stuck exactly where the pixel space does not have the pixel at COORD, and there takes no value. -/
def Obligations.StepIsStuckWhereThePixelIsAbsent : Prop :=
  ∀ s px py, exec .step s = .fault (.pixelAbsent px py) ↔
    pixRead s.pixels px py = none ∧ px = val s .charX + val s .subX * 8 + val s .pixX ∧
      py = val s .charY + val s .subY * 8 + val s .pixY

/-- R43, R100: in RUN the pixel read lies in the sheet, and every stored counter is within its bound. -/
def Obligations.RunReadsInsideTheSheet : Prop :=
  ∀ s, s.Inv → s.status = .run →
    s.pos.px < val s .imgW ∧ s.pos.py < val s .imgH ∧
    val s .charX + 8 * val s .gw ≤ val s .imgW ∧ val s .charY + 8 * val s .gh ≤ val s .imgH ∧
    val s .gw ≤ 8191 ∧ val s .gh ≤ 8191 ∧
    s.pos.loop.bitIndex s.geom.sheet < val s .imgW * val s .imgH

/-- R147: once START has been accepted no exception occurs and STEP does not get stuck, while the pixel space holds the
sheet: STEP completes, STATE stays RUN or becomes DONE, and ERR stays 0. -/
def Obligations.NoExceptionInRun : Prop :=
  ∀ s, s.Inv → s.status = .run → s.imagePresent →
    ∃ t, exec .step s = .next t ∧ (t.status = .run ∨ t.status = .done) ∧ val t .err = 0

/-- R56: in RUN a STEP emits one byte when PIX_X = 7 before it and none otherwise. -/
def Obligations.StepEmitsAtTheEndOfAPixelRow : Prop :=
  ∀ s t, s.Inv → s.status = .run → exec .step s = .next t →
    (val s .pixX = 7 → ∃ v, t.out = s.out ++ [v]) ∧ (val s .pixX ≠ 7 → t.out = s.out)

/-! ## The whole machine -/

/-- The invariant holds at reset. -/
def Obligations.ResetMeetsTheInvariant : Prop := State.reset.Inv

/-- R28, R20: from every state that meets the invariant, a step gives a state that meets it. -/
def Obligations.EveryStepKeepsTheInvariant : Prop :=
  ∀ s t, s.Inv → step s = .next t → t.Inv

/-- R12: the only transitions of STATE are IDLE, DONE or ERR to RUN, DONE or ERR by START; RUN to DONE by STEP; DONE or
ERR to IDLE by CLEAR; any state to IDLE by reset. -/
def Obligations.OnlyTheseStateTransitions : Prop :=
  ∀ s t, s.blockDriven = true → step s = .next t → t.status ≠ s.status →
    ((fetch s).1 = .run .start ∧ s.status ≠ .run ∧ t.status ≠ .idle) ∨
    ((fetch s).1 = .run .step ∧ s.status = .run ∧ t.status = .done) ∨
    ((fetch s).1 = .run .clear ∧ (s.status = .done ∨ s.status = .err) ∧ t.status = .idle) ∨
    ((fetch s).1 = .reset ∧ t.status = .idle)

/-- R13, R14: only a host write outside RUN or a reset changes IMG_W, IMG_H, GW or GH. -/
def Obligations.OnlyHostWritesChangeTheInputs : Prop :=
  ∀ s t, step s = .next t → t.geom ≠ s.geom →
    (fetch s).1 = .reset ∨ (s.status ≠ .run ∧ ∃ i n v, (fetch s).1 = .run i ∧ InputWrite i n v)

/-- R26, R44: OUT is emptied only by START and reset; every other step leaves it or appends one byte at its end. -/
def Obligations.OutIsAppendOnly : Prop :=
  ∀ s t, step s = .next t →
    t.out = s.out ∨ (∃ v, t.out = s.out ++ [v]) ∨
      (t.out = [] ∧ ((fetch s).1 = .run .start ∧ s.status ≠ .run ∨ (fetch s).1 = .reset))

/-- R25: no step of the machine writes the pixel space. -/
def Obligations.NoStepWritesThePixelSpace : Prop :=
  ∀ s t, step s = .next t → ∀ a, t.pixels.read a = s.pixels.read a

/-- R52: while STATE = RUN no host word changes anything but the value a read returns: the host can observe a running
call but cannot influence it. -/
def Obligations.HostCannotDisturbARunningCall : Prop :=
  ∀ s w rest, s.status = .run → s.agenda = .host w :: rest →
    ∃ t, step s = .next t ∧ SameRegsBut [] s t ∧ SamePixels s t ∧ SameOut s t ∧
      t.fnResult = s.fnResult ∧ t.agenda = rest ∧ t.status = .run

/-- R23, R150: `busy`, `done` and `err` decode STATE, and at most one of them is 1. -/
def Obligations.OutputsDecodeTheState : Prop :=
  ∀ s : State, (s.busy = true ↔ val s .status = 1) ∧ (s.done = true ↔ val s .status = 2) ∧
    (s.err = true ↔ val s .status = 3) ∧
    one (s.busy = true) + one (s.done = true) + one (s.err = true) ≤ 1

/-! ## Calls -/

/-- R76, WAIT: it reads STATUS; while the value read has STATE = RUN it goes on after a turn of the sequencer (one turn:
log 10), otherwise it is over. -/
def Obligations.WaitReadsStatus : Prop :=
  ∀ s, ∃ t v, exec .wait s = .next t ∧ t.rdata = some v ∧ v.toNat = tableValue s .status ∧
    t.agenda = (if v.toNat % 4 = 1 then [.sequencer, .operation .wait] else []) ++ s.agenda ∧
    SameRegsBut [] s t ∧ SamePixels s t ∧ SameOut s t ∧ t.fnResult = s.fnResult

/-- R76, ENCODE: what happens next is WR IMG_W; WR IMG_H; WR GW; WR GH; START; WAIT. -/
def Obligations.EncodeExpands : Prop :=
  ∀ s w h gw gh, ∃ t a b c d e, exec (.encode w h gw gh) s = .next t ∧
    t.agenda = [.host a, .host b, .host c, .host d, .host e, .operation .wait] ++ s.agenda ∧
    a.toNat = 0x820000 + w.toNat ∧ b.toNat = 0x830000 + h.toNat ∧ c.toNat = 0x840000 + gw.toNat ∧
    d.toNat = 0x850000 + gh.toNat ∧ e.toNat = 0x800001 ∧
    SameRegsBut [] s t ∧ SamePixels s t ∧ SameOut s t ∧ t.rdata = s.rdata ∧ t.fnResult = s.fnResult

/-- R136: from any state of a running call whose image is present, the sequencer finishes it: with n the bit index of
the position, every k < W·H − n turns leave RUN, and W·H − n turns reach DONE with W·H/8 bytes in OUT. -/
def Obligations.RunningCallFinishes : Prop :=
  ∀ s, s.Inv → s.status = .run → s.imagePresent → s.agenda = [] →
    (∀ k, k < pixelCount s - s.pos.loop.bitIndex s.geom.sheet → ∃ t, runFor k s = .next t ∧ t.status = .run) ∧
    ∃ t, runFor (pixelCount s - s.pos.loop.bitIndex s.geom.sheet) s = .next t ∧ t.status = .done ∧
      t.out.length = pixelCount s / 8

/-- R137: START outside RUN, then host words and sequencer turns in any interleaving, no reset. Where ENCODE of the image
is a byte string: before the W·H-th turn the block is in RUN with a prefix of it in OUT; at the W·H-th turn it is in
DONE with all of it, and stays so until CLEAR or another START; OUT stays so until another START. Where ENCODE rejects:
START itself leaves ERR with the code and OUT empty, and no turn changes that. -/
def Obligations.EveryInterleavingComputesEncode : Prop :=
  ∀ s img, s.status ≠ .run → HoldsImage s.pixels img (val s .imgW) (val s .imgH) →
    (∀ bs evs, encodeCall img s.geom.sheet = .bytes bs → evs.all hostOrSequencer = true →
      s.agenda = .host 0x800001#24 :: evs → turns evs < pixelCount s →
      ∃ t, runFor (1 + evs.length) s = .next t ∧ t.status = .run ∧ t.out = bs.take (turns evs / 8)) ∧
    (∀ bs evs evs', encodeCall img s.geom.sheet = .bytes bs → evs.all hostOrSequencer = true →
      turns evs = pixelCount s → (evs = [] ∨ evs.getLast? = some .sequencer) → evs'.all leavesDoneAlone = true →
      s.agenda = .host 0x800001#24 :: (evs ++ evs') →
      ∃ t, runFor (1 + evs.length + evs'.length) s = .next t ∧ t.status = .done ∧ t.out = bs ∧ val t .err = 0) ∧
    (∀ bs evs evs', encodeCall img s.geom.sheet = .bytes bs → evs.all hostOrSequencer = true →
      turns evs = pixelCount s → (evs = [] ∨ evs.getLast? = some .sequencer) → evs'.all startsNothing = true →
      s.agenda = .host 0x800001#24 :: (evs ++ evs') →
      ∃ t, runFor (1 + evs.length + evs'.length) s = .next t ∧ t.status ≠ .run ∧ t.out = bs) ∧
    (∀ x evs, encodeCall img s.geom.sheet = .reject x → evs.all leavesDoneAlone = true →
      s.agenda = .host 0x800001#24 :: evs →
      ∃ t, runFor (1 + evs.length) s = .next t ∧ t.status = .err ∧ t.errCode = x.code ∧ t.out = []) ∧
    (∀ x evs, encodeCall img s.geom.sheet = .reject x → evs.all startsNothing = true →
      s.agenda = .host 0x800001#24 :: evs →
      ∃ t, runFor (1 + evs.length) s = .next t ∧ t.status ≠ .run ∧ t.out = [])

/-- R135, R76: the pseudo-operation ENCODE outside RUN computes the whole-call function: with the image in the pixel
space it ends in DONE with exactly ENCODE's bytes in OUT, or in ERR with ENCODE's code and OUT empty. -/
def Obligations.EncodeOperationComputesTheAsset : Prop :=
  ∀ (s : State) img (w h gw gh : Word) rest, s.status ≠ .run →
    HoldsImage s.pixels img w.toNat h.toNat → s.agenda = .operation (.encode w h gw gh) :: rest →
    (∀ bs, encodeCall img ⟨w.toNat, h.toNat, gw.toNat, gh.toNat⟩ = .bytes bs →
      ∃ t, runFor (2 * (w.toNat * h.toNat) + 7) s = .next t ∧ t.status = .done ∧ t.out = bs ∧
        bs.length = w.toNat * h.toNat / 8 ∧ t.rdata = some 2#16 ∧ t.agenda = rest) ∧
    (∀ x, encodeCall img ⟨w.toNat, h.toNat, gw.toNat, gh.toNat⟩ = .reject x →
      ∃ t, runFor 7 s = .next t ∧ t.status = .err ∧ t.errCode = x.code ∧ t.out = [] ∧
        t.rdata = some 3#16 ∧ t.agenda = rest)
end

