-- ==== Sys2Proof/Laws/State.lean ====
section
/-! SUPPORT. One lemma per field per update, each true by unfolding the update, so that no later proof unfolds a record
update. -/

namespace Sys2Proof.Machine

open Sys2Proof

/-! ## setStatus -/

@[simp] theorem State.setStatus_status (s : State) (c : CallState) : (s.setStatus c).status = c := rfl
@[simp] theorem State.setStatus_geom (s : State) (c : CallState) : (s.setStatus c).geom = s.geom := rfl
@[simp] theorem State.setStatus_errCode (s : State) (c : CallState) : (s.setStatus c).errCode = s.errCode := rfl
@[simp] theorem State.setStatus_errInfo (s : State) (c : CallState) : (s.setStatus c).errInfo = s.errInfo := rfl
@[simp] theorem State.setStatus_pos (s : State) (c : CallState) : (s.setStatus c).pos = s.pos := rfl
@[simp] theorem State.setStatus_packer (s : State) (c : CallState) : (s.setStatus c).packer = s.packer := rfl
@[simp] theorem State.setStatus_pixels (s : State) (c : CallState) : (s.setStatus c).pixels = s.pixels := rfl
@[simp] theorem State.setStatus_out (s : State) (c : CallState) : (s.setStatus c).out = s.out := rfl
@[simp] theorem State.setStatus_rdata (s : State) (c : CallState) : (s.setStatus c).rdata = s.rdata := rfl
@[simp] theorem State.setStatus_fnResult (s : State) (c : CallState) : (s.setStatus c).fnResult = s.fnResult := rfl
@[simp] theorem State.setStatus_agenda (s : State) (c : CallState) : (s.setStatus c).agenda = s.agenda := rfl

/-! ## setGeom -/

@[simp] theorem State.setGeom_status (s : State) (g : Geometry) : (s.setGeom g).status = s.status := rfl
@[simp] theorem State.setGeom_geom (s : State) (g : Geometry) : (s.setGeom g).geom = g := rfl
@[simp] theorem State.setGeom_errCode (s : State) (g : Geometry) : (s.setGeom g).errCode = s.errCode := rfl
@[simp] theorem State.setGeom_errInfo (s : State) (g : Geometry) : (s.setGeom g).errInfo = s.errInfo := rfl
@[simp] theorem State.setGeom_pos (s : State) (g : Geometry) : (s.setGeom g).pos = s.pos := rfl
@[simp] theorem State.setGeom_packer (s : State) (g : Geometry) : (s.setGeom g).packer = s.packer := rfl
@[simp] theorem State.setGeom_pixels (s : State) (g : Geometry) : (s.setGeom g).pixels = s.pixels := rfl
@[simp] theorem State.setGeom_out (s : State) (g : Geometry) : (s.setGeom g).out = s.out := rfl
@[simp] theorem State.setGeom_rdata (s : State) (g : Geometry) : (s.setGeom g).rdata = s.rdata := rfl
@[simp] theorem State.setGeom_fnResult (s : State) (g : Geometry) : (s.setGeom g).fnResult = s.fnResult := rfl
@[simp] theorem State.setGeom_agenda (s : State) (g : Geometry) : (s.setGeom g).agenda = s.agenda := rfl

/-! ## setErr -/

@[simp] theorem State.setErr_status (s : State) (code info : BitVec 2) : (s.setErr code info).status = s.status := rfl
@[simp] theorem State.setErr_geom (s : State) (code info : BitVec 2) : (s.setErr code info).geom = s.geom := rfl
@[simp] theorem State.setErr_errCode (s : State) (code info : BitVec 2) : (s.setErr code info).errCode = code := rfl
@[simp] theorem State.setErr_errInfo (s : State) (code info : BitVec 2) : (s.setErr code info).errInfo = info := rfl
@[simp] theorem State.setErr_pos (s : State) (code info : BitVec 2) : (s.setErr code info).pos = s.pos := rfl
@[simp] theorem State.setErr_packer (s : State) (code info : BitVec 2) : (s.setErr code info).packer = s.packer := rfl
@[simp] theorem State.setErr_pixels (s : State) (code info : BitVec 2) : (s.setErr code info).pixels = s.pixels := rfl
@[simp] theorem State.setErr_out (s : State) (code info : BitVec 2) : (s.setErr code info).out = s.out := rfl
@[simp] theorem State.setErr_rdata (s : State) (code info : BitVec 2) : (s.setErr code info).rdata = s.rdata := rfl
@[simp] theorem State.setErr_fnResult (s : State) (code info : BitVec 2) : (s.setErr code info).fnResult = s.fnResult := rfl
@[simp] theorem State.setErr_agenda (s : State) (code info : BitVec 2) : (s.setErr code info).agenda = s.agenda := rfl

/-! ## setPos -/

@[simp] theorem State.setPos_status (s : State) (p : Position) : (s.setPos p).status = s.status := rfl
@[simp] theorem State.setPos_geom (s : State) (p : Position) : (s.setPos p).geom = s.geom := rfl
@[simp] theorem State.setPos_errCode (s : State) (p : Position) : (s.setPos p).errCode = s.errCode := rfl
@[simp] theorem State.setPos_errInfo (s : State) (p : Position) : (s.setPos p).errInfo = s.errInfo := rfl
@[simp] theorem State.setPos_pos (s : State) (p : Position) : (s.setPos p).pos = p := rfl
@[simp] theorem State.setPos_packer (s : State) (p : Position) : (s.setPos p).packer = s.packer := rfl
@[simp] theorem State.setPos_pixels (s : State) (p : Position) : (s.setPos p).pixels = s.pixels := rfl
@[simp] theorem State.setPos_out (s : State) (p : Position) : (s.setPos p).out = s.out := rfl
@[simp] theorem State.setPos_rdata (s : State) (p : Position) : (s.setPos p).rdata = s.rdata := rfl
@[simp] theorem State.setPos_fnResult (s : State) (p : Position) : (s.setPos p).fnResult = s.fnResult := rfl
@[simp] theorem State.setPos_agenda (s : State) (p : Position) : (s.setPos p).agenda = s.agenda := rfl

/-! ## setPacker -/

@[simp] theorem State.setPacker_status (s : State) (p : Packer) : (s.setPacker p).status = s.status := rfl
@[simp] theorem State.setPacker_geom (s : State) (p : Packer) : (s.setPacker p).geom = s.geom := rfl
@[simp] theorem State.setPacker_errCode (s : State) (p : Packer) : (s.setPacker p).errCode = s.errCode := rfl
@[simp] theorem State.setPacker_errInfo (s : State) (p : Packer) : (s.setPacker p).errInfo = s.errInfo := rfl
@[simp] theorem State.setPacker_pos (s : State) (p : Packer) : (s.setPacker p).pos = s.pos := rfl
@[simp] theorem State.setPacker_packer (s : State) (p : Packer) : (s.setPacker p).packer = p := rfl
@[simp] theorem State.setPacker_pixels (s : State) (p : Packer) : (s.setPacker p).pixels = s.pixels := rfl
@[simp] theorem State.setPacker_out (s : State) (p : Packer) : (s.setPacker p).out = s.out := rfl
@[simp] theorem State.setPacker_rdata (s : State) (p : Packer) : (s.setPacker p).rdata = s.rdata := rfl
@[simp] theorem State.setPacker_fnResult (s : State) (p : Packer) : (s.setPacker p).fnResult = s.fnResult := rfl
@[simp] theorem State.setPacker_agenda (s : State) (p : Packer) : (s.setPacker p).agenda = s.agenda := rfl

/-! ## setPixels -/

@[simp] theorem State.setPixels_status (s : State) (m : Memory) : (s.setPixels m).status = s.status := rfl
@[simp] theorem State.setPixels_geom (s : State) (m : Memory) : (s.setPixels m).geom = s.geom := rfl
@[simp] theorem State.setPixels_errCode (s : State) (m : Memory) : (s.setPixels m).errCode = s.errCode := rfl
@[simp] theorem State.setPixels_errInfo (s : State) (m : Memory) : (s.setPixels m).errInfo = s.errInfo := rfl
@[simp] theorem State.setPixels_pos (s : State) (m : Memory) : (s.setPixels m).pos = s.pos := rfl
@[simp] theorem State.setPixels_packer (s : State) (m : Memory) : (s.setPixels m).packer = s.packer := rfl
@[simp] theorem State.setPixels_pixels (s : State) (m : Memory) : (s.setPixels m).pixels = m := rfl
@[simp] theorem State.setPixels_out (s : State) (m : Memory) : (s.setPixels m).out = s.out := rfl
@[simp] theorem State.setPixels_rdata (s : State) (m : Memory) : (s.setPixels m).rdata = s.rdata := rfl
@[simp] theorem State.setPixels_fnResult (s : State) (m : Memory) : (s.setPixels m).fnResult = s.fnResult := rfl
@[simp] theorem State.setPixels_agenda (s : State) (m : Memory) : (s.setPixels m).agenda = s.agenda := rfl

/-! ## clearOut -/

@[simp] theorem State.clearOut_status (s : State) : (s.clearOut).status = s.status := rfl
@[simp] theorem State.clearOut_geom (s : State) : (s.clearOut).geom = s.geom := rfl
@[simp] theorem State.clearOut_errCode (s : State) : (s.clearOut).errCode = s.errCode := rfl
@[simp] theorem State.clearOut_errInfo (s : State) : (s.clearOut).errInfo = s.errInfo := rfl
@[simp] theorem State.clearOut_pos (s : State) : (s.clearOut).pos = s.pos := rfl
@[simp] theorem State.clearOut_packer (s : State) : (s.clearOut).packer = s.packer := rfl
@[simp] theorem State.clearOut_pixels (s : State) : (s.clearOut).pixels = s.pixels := rfl
@[simp] theorem State.clearOut_out (s : State) : (s.clearOut).out = [] := rfl
@[simp] theorem State.clearOut_rdata (s : State) : (s.clearOut).rdata = s.rdata := rfl
@[simp] theorem State.clearOut_fnResult (s : State) : (s.clearOut).fnResult = s.fnResult := rfl
@[simp] theorem State.clearOut_agenda (s : State) : (s.clearOut).agenda = s.agenda := rfl

/-! ## byteEmit -/

@[simp] theorem State.byteEmit_status (s : State) (v : Byte) : (s.byteEmit v).status = s.status := rfl
@[simp] theorem State.byteEmit_geom (s : State) (v : Byte) : (s.byteEmit v).geom = s.geom := rfl
@[simp] theorem State.byteEmit_errCode (s : State) (v : Byte) : (s.byteEmit v).errCode = s.errCode := rfl
@[simp] theorem State.byteEmit_errInfo (s : State) (v : Byte) : (s.byteEmit v).errInfo = s.errInfo := rfl
@[simp] theorem State.byteEmit_pos (s : State) (v : Byte) : (s.byteEmit v).pos = s.pos := rfl
@[simp] theorem State.byteEmit_packer (s : State) (v : Byte) : (s.byteEmit v).packer = s.packer := rfl
@[simp] theorem State.byteEmit_pixels (s : State) (v : Byte) : (s.byteEmit v).pixels = s.pixels := rfl
@[simp] theorem State.byteEmit_out (s : State) (v : Byte) : (s.byteEmit v).out = s.out ++ [v] := rfl
@[simp] theorem State.byteEmit_rdata (s : State) (v : Byte) : (s.byteEmit v).rdata = s.rdata := rfl
@[simp] theorem State.byteEmit_fnResult (s : State) (v : Byte) : (s.byteEmit v).fnResult = s.fnResult := rfl
@[simp] theorem State.byteEmit_agenda (s : State) (v : Byte) : (s.byteEmit v).agenda = s.agenda := rfl

/-! ## setRdata -/

@[simp] theorem State.setRdata_status (s : State) (v : Word) : (s.setRdata v).status = s.status := rfl
@[simp] theorem State.setRdata_geom (s : State) (v : Word) : (s.setRdata v).geom = s.geom := rfl
@[simp] theorem State.setRdata_errCode (s : State) (v : Word) : (s.setRdata v).errCode = s.errCode := rfl
@[simp] theorem State.setRdata_errInfo (s : State) (v : Word) : (s.setRdata v).errInfo = s.errInfo := rfl
@[simp] theorem State.setRdata_pos (s : State) (v : Word) : (s.setRdata v).pos = s.pos := rfl
@[simp] theorem State.setRdata_packer (s : State) (v : Word) : (s.setRdata v).packer = s.packer := rfl
@[simp] theorem State.setRdata_pixels (s : State) (v : Word) : (s.setRdata v).pixels = s.pixels := rfl
@[simp] theorem State.setRdata_out (s : State) (v : Word) : (s.setRdata v).out = s.out := rfl
@[simp] theorem State.setRdata_rdata (s : State) (v : Word) : (s.setRdata v).rdata = some v := rfl
@[simp] theorem State.setRdata_fnResult (s : State) (v : Word) : (s.setRdata v).fnResult = s.fnResult := rfl
@[simp] theorem State.setRdata_agenda (s : State) (v : Word) : (s.setRdata v).agenda = s.agenda := rfl

/-! ## setFnResult -/

@[simp] theorem State.setFnResult_status (s : State) (r : FnResult) : (s.setFnResult r).status = s.status := rfl
@[simp] theorem State.setFnResult_geom (s : State) (r : FnResult) : (s.setFnResult r).geom = s.geom := rfl
@[simp] theorem State.setFnResult_errCode (s : State) (r : FnResult) : (s.setFnResult r).errCode = s.errCode := rfl
@[simp] theorem State.setFnResult_errInfo (s : State) (r : FnResult) : (s.setFnResult r).errInfo = s.errInfo := rfl
@[simp] theorem State.setFnResult_pos (s : State) (r : FnResult) : (s.setFnResult r).pos = s.pos := rfl
@[simp] theorem State.setFnResult_packer (s : State) (r : FnResult) : (s.setFnResult r).packer = s.packer := rfl
@[simp] theorem State.setFnResult_pixels (s : State) (r : FnResult) : (s.setFnResult r).pixels = s.pixels := rfl
@[simp] theorem State.setFnResult_out (s : State) (r : FnResult) : (s.setFnResult r).out = s.out := rfl
@[simp] theorem State.setFnResult_rdata (s : State) (r : FnResult) : (s.setFnResult r).rdata = s.rdata := rfl
@[simp] theorem State.setFnResult_fnResult (s : State) (r : FnResult) : (s.setFnResult r).fnResult = some r := rfl
@[simp] theorem State.setFnResult_agenda (s : State) (r : FnResult) : (s.setFnResult r).agenda = s.agenda := rfl

/-! ## setAgenda -/

@[simp] theorem State.setAgenda_status (s : State) (es : List Event) : (s.setAgenda es).status = s.status := rfl
@[simp] theorem State.setAgenda_geom (s : State) (es : List Event) : (s.setAgenda es).geom = s.geom := rfl
@[simp] theorem State.setAgenda_errCode (s : State) (es : List Event) : (s.setAgenda es).errCode = s.errCode := rfl
@[simp] theorem State.setAgenda_errInfo (s : State) (es : List Event) : (s.setAgenda es).errInfo = s.errInfo := rfl
@[simp] theorem State.setAgenda_pos (s : State) (es : List Event) : (s.setAgenda es).pos = s.pos := rfl
@[simp] theorem State.setAgenda_packer (s : State) (es : List Event) : (s.setAgenda es).packer = s.packer := rfl
@[simp] theorem State.setAgenda_pixels (s : State) (es : List Event) : (s.setAgenda es).pixels = s.pixels := rfl
@[simp] theorem State.setAgenda_out (s : State) (es : List Event) : (s.setAgenda es).out = s.out := rfl
@[simp] theorem State.setAgenda_rdata (s : State) (es : List Event) : (s.setAgenda es).rdata = s.rdata := rfl
@[simp] theorem State.setAgenda_fnResult (s : State) (es : List Event) : (s.setAgenda es).fnResult = s.fnResult := rfl
@[simp] theorem State.setAgenda_agenda (s : State) (es : List Event) : (s.setAgenda es).agenda = es := rfl

/-! ## BP8's answer -/

/-- BP8's answer only extends the output. -/
@[simp] theorem State.answer_none (s : State) : s.answer none = s := rfl
/-- A byte in the answer is emitted. -/
@[simp] theorem State.answer_some (s : State) (v : Byte) : s.answer (some v) = s.byteEmit v := rfl
@[simp] theorem State.answer_status (s : State) (a : Option Byte) : (s.answer a).status = s.status := by cases a <;> rfl
@[simp] theorem State.answer_geom (s : State) (a : Option Byte) : (s.answer a).geom = s.geom := by cases a <;> rfl
@[simp] theorem State.answer_errCode (s : State) (a : Option Byte) : (s.answer a).errCode = s.errCode := by cases a <;> rfl
@[simp] theorem State.answer_errInfo (s : State) (a : Option Byte) : (s.answer a).errInfo = s.errInfo := by cases a <;> rfl
@[simp] theorem State.answer_pos (s : State) (a : Option Byte) : (s.answer a).pos = s.pos := by cases a <;> rfl
@[simp] theorem State.answer_packer (s : State) (a : Option Byte) : (s.answer a).packer = s.packer := by cases a <;> rfl
@[simp] theorem State.answer_pixels (s : State) (a : Option Byte) : (s.answer a).pixels = s.pixels := by cases a <;> rfl
@[simp] theorem State.answer_rdata (s : State) (a : Option Byte) : (s.answer a).rdata = s.rdata := by cases a <;> rfl
@[simp] theorem State.answer_fnResult (s : State) (a : Option Byte) : (s.answer a).fnResult = s.fnResult := by cases a <;> rfl
@[simp] theorem State.answer_agenda (s : State) (a : Option Byte) : (s.answer a).agenda = s.agenda := by cases a <;> rfl

/-- The output after BP8's answer. -/
theorem State.answer_out (s : State) (a : Option Byte) : (s.answer a).out = s.out ++ a.toList := by
  cases a <;> simp

/-! ## Exceptions, calls, reset -/

@[simp] theorem State.raise_status (s : State) (x : Exception) (info : BitVec 2) : (s.raise x info).status = .err := rfl
@[simp] theorem State.raise_geom (s : State) (x : Exception) (info : BitVec 2) : (s.raise x info).geom = s.geom := rfl
@[simp] theorem State.raise_errCode (s : State) (x : Exception) (info : BitVec 2) : (s.raise x info).errCode = x.code := rfl
@[simp] theorem State.raise_errInfo (s : State) (x : Exception) (info : BitVec 2) : (s.raise x info).errInfo = info := rfl
@[simp] theorem State.raise_pos (s : State) (x : Exception) (info : BitVec 2) : (s.raise x info).pos = s.pos := rfl
@[simp] theorem State.raise_packer (s : State) (x : Exception) (info : BitVec 2) : (s.raise x info).packer = s.packer := rfl
@[simp] theorem State.raise_pixels (s : State) (x : Exception) (info : BitVec 2) : (s.raise x info).pixels = s.pixels := rfl
@[simp] theorem State.raise_out (s : State) (x : Exception) (info : BitVec 2) : (s.raise x info).out = s.out := rfl
@[simp] theorem State.raise_rdata (s : State) (x : Exception) (info : BitVec 2) : (s.raise x info).rdata = s.rdata := rfl
@[simp] theorem State.raise_fnResult (s : State) (x : Exception) (info : BitVec 2) : (s.raise x info).fnResult = s.fnResult := rfl
@[simp] theorem State.raise_agenda (s : State) (x : Exception) (info : BitVec 2) : (s.raise x info).agenda = s.agenda := rfl

@[simp] theorem State.acknowledge_status (s : State) : (s.acknowledge).status = .idle := rfl
@[simp] theorem State.acknowledge_geom (s : State) : (s.acknowledge).geom = s.geom := rfl
@[simp] theorem State.acknowledge_errCode (s : State) : (s.acknowledge).errCode = 0#2 := rfl
@[simp] theorem State.acknowledge_errInfo (s : State) : (s.acknowledge).errInfo = 0#2 := rfl
@[simp] theorem State.acknowledge_pos (s : State) : (s.acknowledge).pos = s.pos := rfl
@[simp] theorem State.acknowledge_packer (s : State) : (s.acknowledge).packer = s.packer := rfl
@[simp] theorem State.acknowledge_pixels (s : State) : (s.acknowledge).pixels = s.pixels := rfl
@[simp] theorem State.acknowledge_out (s : State) : (s.acknowledge).out = s.out := rfl
@[simp] theorem State.acknowledge_rdata (s : State) : (s.acknowledge).rdata = s.rdata := rfl
@[simp] theorem State.acknowledge_fnResult (s : State) : (s.acknowledge).fnResult = s.fnResult := rfl
@[simp] theorem State.acknowledge_agenda (s : State) : (s.acknowledge).agenda = s.agenda := rfl

@[simp] theorem State.beginCall_status (s : State) : (s.beginCall).status = s.status := rfl
@[simp] theorem State.beginCall_geom (s : State) : (s.beginCall).geom = s.geom := rfl
@[simp] theorem State.beginCall_errCode (s : State) : (s.beginCall).errCode = 0#2 := rfl
@[simp] theorem State.beginCall_errInfo (s : State) : (s.beginCall).errInfo = 0#2 := rfl
@[simp] theorem State.beginCall_pos (s : State) : (s.beginCall).pos = Position.zero := rfl
@[simp] theorem State.beginCall_packer (s : State) : (s.beginCall).packer = Packer.empty := rfl
@[simp] theorem State.beginCall_pixels (s : State) : (s.beginCall).pixels = s.pixels := rfl
@[simp] theorem State.beginCall_out (s : State) : (s.beginCall).out = [] := rfl
@[simp] theorem State.beginCall_rdata (s : State) : (s.beginCall).rdata = s.rdata := rfl
@[simp] theorem State.beginCall_fnResult (s : State) : (s.beginCall).fnResult = s.fnResult := rfl
@[simp] theorem State.beginCall_agenda (s : State) : (s.beginCall).agenda = s.agenda := rfl

@[simp] theorem State.blockReset_status (s : State) : (s.blockReset).status = .idle := rfl
@[simp] theorem State.blockReset_geom (s : State) : (s.blockReset).geom = Geometry.zero := rfl
@[simp] theorem State.blockReset_errCode (s : State) : (s.blockReset).errCode = 0#2 := rfl
@[simp] theorem State.blockReset_errInfo (s : State) : (s.blockReset).errInfo = 0#2 := rfl
@[simp] theorem State.blockReset_pos (s : State) : (s.blockReset).pos = Position.zero := rfl
@[simp] theorem State.blockReset_packer (s : State) : (s.blockReset).packer = Packer.empty := rfl
@[simp] theorem State.blockReset_pixels (s : State) : (s.blockReset).pixels = s.pixels := rfl
@[simp] theorem State.blockReset_out (s : State) : (s.blockReset).out = [] := rfl
@[simp] theorem State.blockReset_rdata (s : State) : (s.blockReset).rdata = s.rdata := rfl
@[simp] theorem State.blockReset_fnResult (s : State) : (s.blockReset).fnResult = s.fnResult := rfl
@[simp] theorem State.blockReset_agenda (s : State) : (s.blockReset).agenda = s.agenda := rfl

end Sys2Proof.Machine
end

