-- ==== Sys2Proof/Laws/BitPacker.lean ====
section
/-! SUPPORT. What BP8's operations do: the bits of ACC after a PUSH or the padding of FLUSH, and every case of a PUSH
and a FLUSH on the machine. -/

namespace Sys2Proof.Machine

open Sys2Proof

/-- A place of a byte is a place of a byte. -/
theorem bitPosition_lt (o : PackOrder) {i : Nat} (h : i < 8) : bitPosition o i < 8 := by
  cases o with
  | lsbFirst => exact h
  | msbFirst => simp only [bitPosition]; omega

/-- Different bits of a group have different places. -/
theorem bitPosition_inj (o : PackOrder) {i j : Nat} (hi : i < 8) (hj : j < 8) :
    bitPosition o i = bitPosition o j ↔ i = j := by
  cases o with
  | lsbFirst => rfl
  | msbFirst => simp only [bitPosition]; omega

/-- Under this hardware's order a bit's place is its index (R46). -/
@[simp] theorem bitPosition_hardware (i : Nat) : bitPosition Config.hardware.packOrder i = i := rfl

/-- Writing one bit of ACC sets that bit and leaves the others. -/
theorem getLsbD_setBit (acc : Byte) {p j : Nat} (b : Bool) (hp : p < 8) (hj : j < 8) :
    (setBit acc p b).getLsbD j = if j = p then b else acc.getLsbD j := by
  obtain ⟨p, rfl⟩ : ∃ q : Fin 8, q.1 = p := ⟨⟨p, hp⟩, rfl⟩
  obtain ⟨j, rfl⟩ : ∃ q : Fin 8, q.1 = j := ⟨⟨j, hj⟩, rfl⟩
  revert acc b p j
  decide

/-- The padding of a group: the last `k` places hold PAD_BIT, the others are as before (R107). -/
theorem getLsbD_padFrom (o : PackOrder) (padBit : Bool) (acc : Byte) {k j : Nat} (hk : k ≤ 8) (hj : j < 8) :
    (padFrom o padBit acc k).getLsbD (bitPosition o j) =
      if 8 - k ≤ j then padBit else acc.getLsbD (bitPosition o j) := by
  induction k generalizing acc with
  | zero => simp only [padFrom]; rw [if_neg (by omega)]
  | succ k ih =>
    rw [padFrom, ih _ (by omega),
      getLsbD_setBit _ _ (bitPosition_lt o (by omega)) (bitPosition_lt o hj)]
    simp only [bitPosition_inj o hj (show 7 - k < 8 by omega)]
    split
    · rw [if_pos (by omega)]
    · split
      · rw [if_pos (by omega)]
      · rw [if_neg (by omega)]

/-- Every case of a PUSH (R105, R106): the eighth bit emits the byte, an earlier one only counts. -/
theorem Packer.push_cases (o : PackOrder) (b : Bool) (p : Packer) :
    (p.cnt = 7#3 ∧ p.push o b = (Packer.empty, some (setBit p.acc (bitPosition o p.cnt.toNat) b))) ∨
    (p.cnt.toNat < 7 ∧ p.push o b = (⟨setBit p.acc (bitPosition o p.cnt.toNat) b, p.cnt + 1#3⟩, none)) := by
  by_cases h : p.cnt = 7#3
  · exact .inl ⟨h, by simp [Packer.push, h]⟩
  · exact .inr ⟨by bv_omega, by simp [Packer.push, h]⟩

/-- Every case of a FLUSH (R107). -/
theorem Packer.flush_cases (o : PackOrder) (padBit : Bool) (p : Packer) :
    (p.cnt = 0#3 ∧ p.flush o padBit = (Packer.empty, none)) ∨
    (p.cnt ≠ 0#3 ∧ p.flush o padBit = (Packer.empty, some (padFrom o padBit p.acc (8 - p.cnt.toNat)))) := by
  by_cases h : p.cnt = 0#3
  · exact .inl ⟨h, by simp [Packer.flush, h]⟩
  · exact .inr ⟨h, by simp [Packer.flush, h]⟩

/-- FLUSH leaves an empty group (R112). -/
@[simp] theorem Packer.flush_fst (o : PackOrder) (padBit : Bool) (p : Packer) : (p.flush o padBit).1 = Packer.empty := by
  rcases p.flush_cases o padBit with ⟨-, h⟩ | ⟨-, h⟩ <;> rw [h]

/-- Every case of a PUSH on the machine. -/
theorem State.push_cases (s : State) (b : Bool) :
    (s.packer.cnt = 7#3 ∧
      s.push b = (s.setPacker Packer.empty).byteEmit (setBit s.packer.acc s.packer.cnt.toNat b)) ∨
    (s.packer.cnt.toNat < 7 ∧
      s.push b = s.setPacker ⟨setBit s.packer.acc s.packer.cnt.toNat b, s.packer.cnt + 1#3⟩) := by
  rcases s.packer.push_cases Config.hardware.packOrder b with ⟨h, e⟩ | ⟨h, e⟩
  · exact .inl ⟨h, by simp [State.push, e]⟩
  · exact .inr ⟨h, by simp [State.push, e]⟩

/-- Every case of a FLUSH on the machine. -/
theorem State.flush_cases (s : State) :
    (s.packer.cnt = 0#3 ∧ s.flush = s.setPacker Packer.empty) ∨
    (s.packer.cnt ≠ 0#3 ∧ s.flush = (s.setPacker Packer.empty).byteEmit
      (padFrom Config.hardware.packOrder Config.hardware.padBit s.packer.acc (8 - s.packer.cnt.toNat))) := by
  rcases s.packer.flush_cases Config.hardware.packOrder Config.hardware.padBit with ⟨h, e⟩ | ⟨h, e⟩
  · exact .inl ⟨h, by simp [State.flush, e]⟩
  · exact .inr ⟨h, by simp [State.flush, e]⟩

@[simp] theorem State.push_status (s : State) (b : Bool) : (s.push b).status = s.status := by simp [State.push]
@[simp] theorem State.push_geom (s : State) (b : Bool) : (s.push b).geom = s.geom := by simp [State.push]
@[simp] theorem State.push_errCode (s : State) (b : Bool) : (s.push b).errCode = s.errCode := by simp [State.push]
@[simp] theorem State.push_errInfo (s : State) (b : Bool) : (s.push b).errInfo = s.errInfo := by simp [State.push]
@[simp] theorem State.push_pos (s : State) (b : Bool) : (s.push b).pos = s.pos := by simp [State.push]
@[simp] theorem State.push_pixels (s : State) (b : Bool) : (s.push b).pixels = s.pixels := by simp [State.push]
@[simp] theorem State.push_rdata (s : State) (b : Bool) : (s.push b).rdata = s.rdata := by simp [State.push]
@[simp] theorem State.push_fnResult (s : State) (b : Bool) : (s.push b).fnResult = s.fnResult := by simp [State.push]
@[simp] theorem State.push_agenda (s : State) (b : Bool) : (s.push b).agenda = s.agenda := by simp [State.push]
@[simp] theorem State.flush_status (s : State) : (s.flush).status = s.status := by simp [State.flush]
@[simp] theorem State.flush_geom (s : State) : (s.flush).geom = s.geom := by simp [State.flush]
@[simp] theorem State.flush_errCode (s : State) : (s.flush).errCode = s.errCode := by simp [State.flush]
@[simp] theorem State.flush_errInfo (s : State) : (s.flush).errInfo = s.errInfo := by simp [State.flush]
@[simp] theorem State.flush_pos (s : State) : (s.flush).pos = s.pos := by simp [State.flush]
@[simp] theorem State.flush_pixels (s : State) : (s.flush).pixels = s.pixels := by simp [State.flush]
@[simp] theorem State.flush_rdata (s : State) : (s.flush).rdata = s.rdata := by simp [State.flush]
@[simp] theorem State.flush_fnResult (s : State) : (s.flush).fnResult = s.fnResult := by simp [State.flush]
@[simp] theorem State.flush_agenda (s : State) : (s.flush).agenda = s.agenda := by simp [State.flush]
@[simp] theorem State.flush_packer (s : State) : s.flush.packer = Packer.empty := by simp [State.flush]

/-- What a PUSH appends to the output: at most one byte. -/
theorem State.push_out (s : State) (b : Bool) : (s.push b).out = s.out ∨ ∃ v, (s.push b).out = s.out ++ [v] := by
  rcases s.push_cases b with ⟨-, e⟩ | ⟨-, e⟩ <;> simp [e]

/-- What a FLUSH appends to the output: at most one byte. -/
theorem State.flush_out (s : State) : s.flush.out = s.out ∨ ∃ v, s.flush.out = s.out ++ [v] := by
  rcases s.flush_cases with ⟨-, e⟩ | ⟨-, e⟩ <;> simp [e]

end Sys2Proof.Machine
end

