-- ==== Sys2Proof/Laws/Decode.lean ====
section
/-! SUPPORT. Laws of the words: the fields of an assembled word, register numbers, and the bytes of a word. -/

namespace Sys2Proof

/-- Register numbers and registers are one to one (R10: no aliases). -/
@[simp] theorem Reg.ofNumber_number (r : Reg) : Reg.ofNumber r.number = r := by cases r <;> rfl

/-- Every number names one register (R10). -/
@[simp] theorem Reg.number_ofNumber (n : BitVec 4) : (Reg.ofNumber n).number = n := by
  revert n; decide

@[simp] theorem htWe_htWord (we : BitVec 1) (zero : BitVec 3) (reg : BitVec 4) (data : Word) :
    htWe (htWord we zero reg data) = we := by
  ext i hi
  simp [htWe, htWord]
  grind

@[simp] theorem htZero_htWord (we : BitVec 1) (zero : BitVec 3) (reg : BitVec 4) (data : Word) :
    htZero (htWord we zero reg data) = zero := by
  ext i hi
  simp [htZero, htWord]
  grind

@[simp] theorem htReg_htWord (we : BitVec 1) (zero : BitVec 3) (reg : BitVec 4) (data : Word) :
    htReg (htWord we zero reg data) = reg := by
  ext i hi
  simp [htReg, htWord]
  grind

@[simp] theorem htData_htWord (we : BitVec 1) (zero : BitVec 3) (reg : BitVec 4) (data : Word) :
    htData (htWord we zero reg data) = data := by
  ext i hi
  simp [htData, htWord]
  grind

/-- A host word is its four fields. -/
@[simp] theorem htWord_fields (w : BitVec 24) : htWord (htWe w) (htZero w) (htReg w) (htData w) = w := by
  ext i hi
  simp [htWe, htZero, htReg, htData, htWord]
  grind

@[simp] theorem bpwFlush_bpwWord (f v b : BitVec 1) : bpwFlush (bpwWord f v b) = f := by revert f v b; decide
@[simp] theorem bpwValid_bpwWord (f v b : BitVec 1) : bpwValid (bpwWord f v b) = v := by revert f v b; decide
@[simp] theorem bpwBit_bpwWord (f v b : BitVec 1) : bpwBit (bpwWord f v b) = b := by revert f v b; decide

/-- A word read from its own bytes, with anything after them, is that word. -/
theorem readWord_toBytes (pw : PortWord) (rest : List Byte) :
    readWord pw.port (pw.toBytes ++ rest) = .ok (pw, rest) := by
  cases pw with
  | ht w =>
    have hw : w.extractLsb' 16 8 ++ w.extractLsb' 8 8 ++ w.extractLsb' 0 8 = w := by
      ext i hi
      simp
      grind
    simp only [PortWord.port, PortWord.toBytes, List.cons_append, List.nil_append, readWord]
    exact congrArg (fun x => Except.ok (PortWord.ht x, rest)) hw
  | seq w =>
    have h : (w.zeroExtend 8).extractLsb' 2 6 = 0#6 ∧ (w.zeroExtend 8).extractLsb' 0 2 = w := by
      revert w; decide
    simp [PortWord.port, PortWord.toBytes, readWord, h.1, h.2]
  | bpw w =>
    have h : (w.zeroExtend 8).extractLsb' 3 5 = 0#5 ∧ (w.zeroExtend 8).extractLsb' 0 3 = w := by
      revert w; decide
    simp [PortWord.port, PortWord.toBytes, readWord, h.1, h.2]

/-- Decoding a word's own bytes is decoding the word. -/
theorem decode_toBytes (pw : PortWord) (rest : List Byte) :
    decode pw.port (pw.toBytes ++ rest) = .ok (decodeWord pw, rest) := by
  simp [decode, readWord_toBytes]

end Sys2Proof
end

