-- ==== Sys2Proof/Laws/Operands.lean ====
section
/-! SUPPORT. What a register read sees of each update, and that the registers determine the architectural state. -/

namespace Sys2Proof.Machine

open Sys2Proof

/-- Two states whose block registers are the same fields read the same in every register. -/
theorem State.reg_congr {s t : State} (h1 : t.status = s.status) (h2 : t.geom = s.geom) (h3 : t.errCode = s.errCode)
    (h4 : t.errInfo = s.errInfo) (h5 : t.pos = s.pos) (h6 : t.packer = s.packer) (r : Reg) : t.reg r = s.reg r := by
  cases r <;> simp [State.reg, State.errWord, h1, h2, h3, h4, h5, h6]

/-- The bits of STATE give it back (R12). -/
@[simp] theorem CallState.ofBits_bits (c : CallState) : CallState.ofBits c.bits = c := by cases c <;> rfl

/-- Every two bits are a STATE (R12). -/
@[simp] theorem CallState.bits_ofBits (b : BitVec 2) : (CallState.ofBits b).bits = b := by revert b; decide

/-- STATE is RUN exactly when its bits are 0b01 (R12, R65). -/
theorem CallState.bits_eq_run (c : CallState) : c.bits = 0b01#2 ↔ c = .run := by cases c <;> decide

/-- The record of a read is no register. -/
@[simp] theorem State.setRdata_reg (s : State) (v : Word) (r : Reg) : (s.setRdata v).reg r = s.reg r :=
  State.reg_congr rfl rfl rfl rfl rfl rfl r

/-- The record of a function result is no register. -/
@[simp] theorem State.setFnResult_reg (s : State) (v : FnResult) (r : Reg) : (s.setFnResult v).reg r = s.reg r :=
  State.reg_congr rfl rfl rfl rfl rfl rfl r

/-- The agenda is no register. -/
@[simp] theorem State.setAgenda_reg (s : State) (es : List Event) (r : Reg) : (s.setAgenda es).reg r = s.reg r :=
  State.reg_congr rfl rfl rfl rfl rfl rfl r

/-- The pixel space is no register. -/
@[simp] theorem State.setPixels_reg (s : State) (m : Memory) (r : Reg) : (s.setPixels m).reg r = s.reg r :=
  State.reg_congr rfl rfl rfl rfl rfl rfl r

/-- BP8's answer is no register. -/
@[simp] theorem State.answer_reg (s : State) (a : Option Byte) (r : Reg) : (s.answer a).reg r = s.reg r := by
  apply State.reg_congr <;> simp

/-- ERR is 0 exactly when both its fields are. -/
theorem State.errWord_eq_zero (s : State) : s.errWord = 0#4 ↔ s.errCode = 0#2 ∧ s.errInfo = 0#2 := by
  unfold State.errWord
  generalize s.errCode = c
  generalize s.errInfo = i
  revert c i
  decide

/-- ERR as a number: ERRCODE in bits [1:0], ERRINFO in bits [3:2] (R20). -/
theorem State.errWord_toNat (s : State) : s.errWord.toNat = s.errCode.toNat + 4 * s.errInfo.toNat := by
  unfold State.errWord
  generalize s.errCode = c
  generalize s.errInfo = i
  revert c i
  decide

/-- A host write is no effect in RUN (R24). -/
@[simp] theorem State.hostWrite_run (s : State) (n : Reg) (v : Word) (h : s.status = .run) : s.hostWrite n v = s := by
  simp [State.hostWrite, h]

/-- A host write to a register that is no input is no effect (R24). -/
theorem State.hostWrite_not_input (s : State) (n : Reg) (v : Word) (h : n.isInput = false) : s.hostWrite n v = s := by
  cases n <;> first | (simp [Reg.isInput] at h; done) | (simp [State.hostWrite, Geometry.set, State.setGeom])

/-- Everything a host write can do: nothing, or one of the inputs outside RUN. -/
theorem State.hostWrite_cases (s : State) (n : Reg) (v : Word) :
    s.hostWrite n v = s ∨ (s.status ≠ .run ∧ n.isInput = true ∧ s.hostWrite n v = s.setGeom (s.geom.set n v)) := by
  by_cases h : s.status = .run
  · exact .inl (s.hostWrite_run n v h)
  · cases hn : n.isInput
    · exact .inl (s.hostWrite_not_input n v hn)
    · exact .inr ⟨h, rfl, by simp [State.hostWrite, h]⟩

end Sys2Proof.Machine
end

