-- ==== Sys2Proof/Laws/Exec.lean ====
section
/-! SUPPORT. What each operation answers, in terms of the shared operations, and every case of START, CLEAR, STEP and of
a step of the machine. -/

namespace Sys2Proof.Machine

open Sys2Proof

/-! ## Operations that always answer a next state -/

@[simp] theorem exec_nop (s : State) : exec .nop s = .next s := rfl
@[simp] theorem exec_cmdReserved (d : Word) (s : State) : exec (.cmdReserved d) s = .next s := rfl
@[simp] theorem exec_htReserved (we : BitVec 1) (z : BitVec 3) (r : BitVec 4) (d : Word) (s : State) :
    exec (.htReserved we z r d) s = .next s := rfl
@[simp] theorem exec_wrImgW (v : Word) (s : State) : exec (.wrImgW v) s = .next (s.hostWrite .imgW v) := rfl
@[simp] theorem exec_wrImgH (v : Word) (s : State) : exec (.wrImgH v) s = .next (s.hostWrite .imgH v) := rfl
@[simp] theorem exec_wrGw (v : Word) (s : State) : exec (.wrGw v) s = .next (s.hostWrite .gw v) := rfl
@[simp] theorem exec_wrGh (v : Word) (s : State) : exec (.wrGh v) s = .next (s.hostWrite .gh v) := rfl
@[simp] theorem exec_wrreg (n : Reg) (v : Word) (s : State) : exec (.wrreg n v) s = .next (s.hostWrite n v) := rfl
@[simp] theorem exec_rdreg (n : Reg) (d : Word) (s : State) :
    exec (.rdreg n d) s = .next (s.setRdata (s.reg n)) := rfl
@[simp] theorem exec_hold (ss : BitVec 2) (s : State) : exec (.hold ss) s = .next s := rfl
@[simp] theorem exec_bpidle (b : BitVec 1) (s : State) : exec (.bpidle b) s = .next s := rfl
@[simp] theorem exec_bpwReserved (b : BitVec 1) (s : State) : exec (.bpwReserved b) s = .next s := rfl
@[simp] theorem exec_push0 (s : State) : exec .push0 s = .next (s.push false) := rfl
@[simp] theorem exec_push1 (s : State) : exec .push1 s = .next (s.push true) := rfl
@[simp] theorem exec_flush (b : BitVec 1) (s : State) : exec (.flush b) s = .next s.flush := rfl
@[simp] theorem exec_bin (smp : Sample) (s : State) :
    exec (.bin smp) s = .next (s.setFnResult (.bit (binarize smp))) := rfl
@[simp] theorem exec_coord (s : State) : exec .coord s = .next (s.setFnResult (.coord s.pos.px s.pos.py)) := rfl
@[simp] theorem exec_next (s : State) : exec .next s =
    .next ((s.setPos (s.pos.advance s.geom).1).setFnResult (.last (s.pos.advance s.geom).2)) := rfl
@[simp] theorem exec_encode (w h gw gh : Word) (s : State) :
    exec (.encode w h gw gh) s = .next (s.setAgenda (encodeExpansion w h gw gh ++ s.agenda)) := rfl

/-! ## Operations with cases -/

/-- START (R123): ignored in RUN, else the check on the cleared state. -/
theorem exec_start (s : State) :
    exec .start s = .next (if s.status = .run then s else s.beginCall.checkGeometry) := by
  by_cases h : s.status = .run <;> simp [exec, execStart, h]

/-- CLEAR (R124). -/
theorem exec_clear (s : State) :
    exec .clear s = .next (if s.status = .done ∨ s.status = .err then s.acknowledge else s) := by
  by_cases h : s.status = .done ∨ s.status = .err <;> simp [exec, execClear, h]

/-- WAIT (R76): one read, and a turn more while the call runs. -/
theorem exec_wait (s : State) : exec .wait s = .next ((s.setRdata (s.reg .status)).setAgenda
    (if s.status = .run then .sequencer :: .operation .wait :: s.agenda else s.agenda)) := by
  by_cases h : s.status = .run
  · simp [exec, execWait, h]
  · simp [exec, execWait, h, State.setAgenda, State.setRdata]

/-- STEP with the pixel present (R127). -/
theorem exec_step_some {s : State} {smp : Sample} (h : pixRead s.pixels s.pos.px s.pos.py = some smp) :
    exec .step s = .next (s.processSample smp) := by
  simp [exec, execStep, h]

/-- STEP with the pixel absent (93 U7). -/
theorem exec_step_none {s : State} (h : pixRead s.pixels s.pos.px s.pos.py = none) :
    exec .step s = .fault (.pixelAbsent s.pos.px s.pos.py) := by
  simp [exec, execStep, h]

/-- Everything a STEP that completes can do. -/
theorem exec_step_cases {s t : State} (h : exec .step s = .next t) :
    ∃ smp, pixRead s.pixels s.pos.px s.pos.py = some smp ∧ t = s.processSample smp := by
  cases hp : pixRead s.pixels s.pos.px s.pos.py with
  | none => rw [exec_step_none hp] at h; cases h
  | some smp => rw [exec_step_some hp] at h; exact ⟨smp, rfl, by cases h; rfl⟩

/-- What `doesNotTile` says (R142). -/
theorem doesNotTile_eq_true (dim cells : Word) :
    doesNotTile dim cells = true ↔ dim.toNat % (8 * cells.toNat) ≠ 0 := by
  unfold doesNotTile
  exact decide_eq_true_iff

/-- What it says when it is false. -/
theorem doesNotTile_eq_false (dim cells : Word) :
    doesNotTile dim cells = false ↔ dim.toNat % (8 * cells.toNat) = 0 := by
  unfold doesNotTile
  rw [decide_eq_false_iff_not, not_not]

/-- The outcomes of START's check (R123), each with its condition. -/
theorem State.checkGeometry_cases (s : State) :
    ((s.geom.gw = 0#16 ∨ s.geom.gh = 0#16) ∧
      s.checkGeometry = s.raise .cellsZero (errInfoBits (decide (s.geom.gh = 0#16)) (decide (s.geom.gw = 0#16)))) ∨
    (s.geom.gw ≠ 0#16 ∧ s.geom.gh ≠ 0#16 ∧
      (doesNotTile s.geom.imgW s.geom.gw = true ∨ doesNotTile s.geom.imgH s.geom.gh = true) ∧
      s.checkGeometry = s.raise .geomMismatch
        (errInfoBits (doesNotTile s.geom.imgH s.geom.gh) (doesNotTile s.geom.imgW s.geom.gw))) ∨
    (s.geom.gw ≠ 0#16 ∧ s.geom.gh ≠ 0#16 ∧ doesNotTile s.geom.imgW s.geom.gw = false ∧
      doesNotTile s.geom.imgH s.geom.gh = false ∧
      ((s.geom.imgW = 0#16 ∨ s.geom.imgH = 0#16) ∧ s.checkGeometry = s.setStatus .done ∨
        s.geom.imgW ≠ 0#16 ∧ s.geom.imgH ≠ 0#16 ∧ s.checkGeometry = s.setStatus .run)) := by
  by_cases h1 : s.geom.gw = 0#16 ∨ s.geom.gh = 0#16
  · exact .inl ⟨h1, by simp [State.checkGeometry, h1]⟩
  refine .inr ?_
  have h1' := not_or.1 h1
  by_cases h2 : doesNotTile s.geom.imgW s.geom.gw = true ∨ doesNotTile s.geom.imgH s.geom.gh = true
  · exact .inl ⟨h1'.1, h1'.2, h2, by simp [State.checkGeometry, h1, h2]⟩
  refine .inr ⟨h1'.1, h1'.2, by simpa using (not_or.1 h2).1, by simpa using (not_or.1 h2).2, ?_⟩
  by_cases h3 : s.geom.imgW = 0#16 ∨ s.geom.imgH = 0#16
  · exact .inl ⟨h3, by simp [State.checkGeometry, h1, h2, h3]⟩
  · exact .inr ⟨(not_or.1 h3).1, (not_or.1 h3).2, by simp [State.checkGeometry, h1, h2, h3]⟩

/-! ## A sample processed -/

/-- What processing a sample leaves of every field but the output, the packer and the status. -/
theorem State.processSample_fields (s : State) (smp : Sample) :
    (s.processSample smp).geom = s.geom ∧ (s.processSample smp).errCode = s.errCode ∧
    (s.processSample smp).errInfo = s.errInfo ∧ (s.processSample smp).pos = (s.pos.advance s.geom).1 ∧
    (s.processSample smp).pixels = s.pixels ∧ (s.processSample smp).rdata = s.rdata ∧
    (s.processSample smp).fnResult = s.fnResult ∧ (s.processSample smp).agenda = s.agenda := by
  unfold State.processSample
  cases (s.pos.advance s.geom).2 <;> simp

/-- STATE after a sample: DONE after the last pixel, otherwise as before (R127). -/
theorem State.processSample_status (s : State) (smp : Sample) :
    (s.processSample smp).status = if (s.pos.advance s.geom).2 then .done else s.status := by
  unfold State.processSample
  cases (s.pos.advance s.geom).2 <;> simp

/-! ## Where a step gets its operation -/

theorem fetch_nil {s : State} (h : s.agenda = []) : fetch s = (.run s.sequencerInstr, s) := by
  simp [fetch, h]

theorem fetch_cons {s : State} {e : Event} {rest : List Event} (h : s.agenda = e :: rest) :
    fetch s = (e.next s, s.setAgenda rest) := by
  simp [fetch, h]

/-- A step that runs an operation. -/
theorem step_of_fetch_run {s s' : State} {i : Instr} (h : fetch s = (.run i, s')) : step s = exec i s' := by
  simp [step, h]

/-- A step that is a reset. -/
theorem step_of_fetch_reset {s s' : State} (h : fetch s = (.reset, s')) : step s = .next s'.blockReset := by
  simp [step, h]

/-- Everything a step can be: a reset, or an operation on the state with the agenda's head taken off. -/
theorem step_cases (s : State) :
    (∃ rest, s.agenda = .reset :: rest ∧ step s = .next (s.setAgenda rest).blockReset ∧ (fetch s).1 = .reset) ∨
    (∃ i es, (fetch s).1 = .run i ∧ (fetch s).2 = s.setAgenda es ∧ step s = exec i (s.setAgenda es)) := by
  cases h : s.agenda with
  | nil =>
    have hs : s.setAgenda [] = s := by simp [State.setAgenda, ← h]
    have hf := fetch_nil h
    exact .inr ⟨s.sequencerInstr, [], by rw [hf], by rw [hf, hs], by rw [hs]; exact step_of_fetch_run hf⟩
  | cons e rest =>
    have hf := fetch_cons h
    cases e with
    | reset => exact .inl ⟨rest, rfl, step_of_fetch_reset hf, by rw [hf]; rfl⟩
    | host w => exact .inr ⟨decodeHt w, rest, by rw [hf]; rfl, by rw [hf], step_of_fetch_run hf⟩
    | sequencer => exact .inr ⟨s.sequencerInstr, rest, by rw [hf]; rfl, by rw [hf], step_of_fetch_run hf⟩
    | packer w => exact .inr ⟨decodeBpw w, rest, by rw [hf]; rfl, by rw [hf], step_of_fetch_run hf⟩
    | operation i => exact .inr ⟨i, rest, by rw [hf]; rfl, by rw [hf], step_of_fetch_run hf⟩

end Sys2Proof.Machine
end

