-- ==== Sys2Proof/Laws/Traverse.lean ====
section
/-! SUPPORT. Every case of NEXT on the position registers (R92): which counter moves, and the tests that led there. -/

namespace Sys2Proof.Machine

open Sys2Proof

/-- Every case of NEXT, innermost counter first; the last is the end of the sheet. -/
theorem Position.advance_cases (g : Geometry) (p : Position) :
    (p.pixX.toNat < 7 ∧ p.advance g = ({ p with pixX := p.pixX + 1#3 }, false)) ∨
    (p.pixX.toNat = 7 ∧ p.pixY.toNat < 7 ∧
      p.advance g = ({ p with pixX := 0#3, pixY := p.pixY + 1#3 }, false)) ∨
    (p.pixX.toNat = 7 ∧ p.pixY.toNat = 7 ∧ p.subX.toNat + 1 < g.gw.toNat ∧
      p.advance g = ({ p with pixX := 0#3, pixY := 0#3, subX := BitVec.ofNat 16 (p.subX.toNat + 1) }, false)) ∨
    (p.pixX.toNat = 7 ∧ p.pixY.toNat = 7 ∧ g.gw.toNat ≤ p.subX.toNat + 1 ∧ p.subY.toNat + 1 < g.gh.toNat ∧
      p.advance g =
        ({ p with pixX := 0#3, pixY := 0#3, subX := 0#16, subY := BitVec.ofNat 16 (p.subY.toNat + 1) }, false)) ∨
    (p.pixX.toNat = 7 ∧ p.pixY.toNat = 7 ∧ g.gw.toNat ≤ p.subX.toNat + 1 ∧ g.gh.toNat ≤ p.subY.toNat + 1 ∧
      p.charX.toNat + 8 * g.gw.toNat < g.imgW.toNat ∧
      p.advance g = (⟨p.charY, BitVec.ofNat 16 (p.charX.toNat + 8 * g.gw.toNat), 0#16, 0#16, 0#3, 0#3⟩, false)) ∨
    (p.pixX.toNat = 7 ∧ p.pixY.toNat = 7 ∧ g.gw.toNat ≤ p.subX.toNat + 1 ∧ g.gh.toNat ≤ p.subY.toNat + 1 ∧
      g.imgW.toNat ≤ p.charX.toNat + 8 * g.gw.toNat ∧ p.charY.toNat + 8 * g.gh.toNat < g.imgH.toNat ∧
      p.advance g = (⟨BitVec.ofNat 16 (p.charY.toNat + 8 * g.gh.toNat), 0#16, 0#16, 0#16, 0#3, 0#3⟩, false)) ∨
    (p.pixX.toNat = 7 ∧ p.pixY.toNat = 7 ∧ g.gw.toNat ≤ p.subX.toNat + 1 ∧ g.gh.toNat ≤ p.subY.toNat + 1 ∧
      g.imgW.toNat ≤ p.charX.toNat + 8 * g.gw.toNat ∧ g.imgH.toNat ≤ p.charY.toNat + 8 * g.gh.toNat ∧
      p.advance g = (Position.zero, true)) := by
  have hx : p.pixX.toNat < 8 := p.pixX.isLt
  have hy : p.pixY.toNat < 8 := p.pixY.isLt
  by_cases h1 : p.pixX.toNat < 7
  · exact .inl ⟨h1, by simp [Position.advance, h1]⟩
  refine .inr ?_
  by_cases h2 : p.pixY.toNat < 7
  · exact .inl ⟨by omega, h2, by simp [Position.advance, h1, h2]⟩
  refine .inr ?_
  by_cases h3 : p.subX.toNat + 1 < g.gw.toNat
  · exact .inl ⟨by omega, by omega, h3, by simp [Position.advance, h1, h2, h3]⟩
  refine .inr ?_
  by_cases h4 : p.subY.toNat + 1 < g.gh.toNat
  · exact .inl ⟨by omega, by omega, by omega, h4, by simp [Position.advance, h1, h2, h3, h4]⟩
  refine .inr ?_
  by_cases h5 : p.charX.toNat + 8 * g.gw.toNat < g.imgW.toNat
  · exact .inl ⟨by omega, by omega, by omega, by omega, h5, by simp [Position.advance, h1, h2, h3, h4, h5]⟩
  refine .inr ?_
  by_cases h6 : p.charY.toNat + 8 * g.gh.toNat < g.imgH.toNat
  · exact .inl ⟨by omega, by omega, by omega, by omega, by omega, h6,
      by simp [Position.advance, h1, h2, h3, h4, h5, h6]⟩
  · exact .inr ⟨by omega, by omega, by omega, by omega, by omega, by omega,
      by simp [Position.advance, Position.zero, h1, h2, h3, h4, h5, h6]⟩

end Sys2Proof.Machine
end

