-- ==== Sys2Proof/Laws/Call.lean ====
section
/-! SUPPORT. Laws for runs and whole calls: steps compose, the bits of a packed byte, a host word while a call runs, a
sample processed in a call. -/

namespace Sys2Proof.Machine

open Sys2Proof

/-! ## Runs -/

/-- One step, then the rest. -/
theorem runFor_succ {s t : State} (k : Nat) (h : step s = .next t) : runFor (k + 1) s = runFor k t := by
  have hc : core.step s = .next t := h
  simp only [runFor, Host.Core.run, hc]
  rfl

/-- A run that completes can be continued. -/
theorem runFor_add {s t : State} (a k : Nat) (h : runFor a s = .next t) : runFor (a + k) s = runFor k t := by
  induction a generalizing s with
  | zero =>
    cases h
    rw [Nat.zero_add]
  | succ a ih =>
    cases hs : step s with
    | next u =>
      rw [runFor_succ _ hs] at h
      rw [Nat.add_right_comm, runFor_succ _ hs]
      exact ih h
    | fault r =>
      have hc : core.step s = .fault r := hs
      simp [runFor, Host.Core.run, hc] at h
    | refused r =>
      have hc : core.step s = .refused r := hs
      simp [runFor, Host.Core.run, hc] at h

/-! ## PACK -/

/-- Eight bits weighted and summed, seen bit by bit. -/
theorem weightedSum_getLsbD (o : PackOrder) : ∀ a0 a1 a2 a3 a4 a5 a6 a7 : Bool, ∀ i : Fin 8,
    (BitVec.ofNat 8 (a0.toNat * bitWeight o 0 + (a1.toNat * bitWeight o 1 + (a2.toNat * bitWeight o 2 +
      (a3.toNat * bitWeight o 3 + (a4.toNat * bitWeight o 4 + (a5.toNat * bitWeight o 5 +
      (a6.toNat * bitWeight o 6 + (a7.toNat * bitWeight o 7 + 0))))))))).getLsbD (bitPosition o i) =
      [a0, a1, a2, a3, a4, a5, a6, a7][i] := by
  cases o <;> decide

/-- Bit i of group k is at its place in byte k (R110). -/
theorem packByte_getLsbD (o : PackOrder) (padBit : Bool) (bits : List Bool) (k : Nat) {i : Nat} (hi : i < 8) :
    (packByte o padBit bits k).getLsbD (bitPosition o i) = streamBit padBit bits (8 * k + i) := by
  have h := weightedSum_getLsbD o (streamBit padBit bits (8 * k + 0)) (streamBit padBit bits (8 * k + 1))
    (streamBit padBit bits (8 * k + 2)) (streamBit padBit bits (8 * k + 3)) (streamBit padBit bits (8 * k + 4))
    (streamBit padBit bits (8 * k + 5)) (streamBit padBit bits (8 * k + 6)) (streamBit padBit bits (8 * k + 7)) ⟨i, hi⟩
  refine h.trans ?_
  obtain rfl | rfl | rfl | rfl | rfl | rfl | rfl | rfl : i = 0 ∨ i = 1 ∨ i = 2 ∨ i = 3 ∨ i = 4 ∨ i = 5 ∨ i = 6 ∨
    i = 7 := by omega
  all_goals rfl

/-- Two bytes with the same bits at the places of a group are the same. -/
theorem byte_ext_bitPosition (o : PackOrder) {x y : Byte}
    (h : ∀ i, i < 8 → x.getLsbD (bitPosition o i) = y.getLsbD (bitPosition o i)) : x = y := by
  apply BitVec.eq_of_getLsbD_eq
  intro i hi
  cases o with
  | lsbFirst => exact h i hi
  | msbFirst =>
    have h7 := h (7 - i) (by omega)
    rwa [show bitPosition .msbFirst (7 - i) = i from by simp only [bitPosition]; omega] at h7

/-! ## A host word while a call runs -/

/-- While STATE = RUN any host word leaves all but RDATA as it was. -/
theorem exec_decodeHt_run (s : State) (w : BitVec 24) (h : s.status = .run) :
    ∃ v, exec (decodeHt w) s = .next { s with rdata := v } := by
  have hw : ∀ n v, ∃ d, (Host.Outcome.next (s.hostWrite n v) : Host.Outcome State Fault Refusal) =
      .next { s with rdata := d } := fun n v => ⟨s.rdata, by rw [State.hostWrite_run _ _ _ h]⟩
  unfold decodeHt
  split
  · exact ⟨s.rdata, rfl⟩
  split
  · exact ⟨_, rfl⟩
  cases Reg.ofNumber (htReg w) <;> try exact hw _ _
  simp only [decodeCommand]
  split
  · exact ⟨s.rdata, rfl⟩
  split
  · exact ⟨s.rdata, by rw [exec_start, if_pos h]⟩
  split
  · exact ⟨s.rdata, by rw [exec_clear, if_neg (by simp [h])]⟩
  · exact ⟨s.rdata, rfl⟩

/-! ## A sample while CNT = PIX_X -/

/-- Where CNT = PIX_X (R28), the eighth bit of a row emits the byte; no other bit emits, and none of those is the
last. -/
theorem State.processSample_inRow {s : State} (hc : s.packer.cnt = s.pos.pixX) (smp : Sample) :
    (s.pos.pixX.toNat = 7 → (s.processSample smp).out = s.out ++ [setBit s.packer.acc 7 (binarize smp)] ∧
      (s.processSample smp).packer = Packer.empty) ∧
    (s.pos.pixX.toNat < 7 → (s.processSample smp).out = s.out ∧
      (s.processSample smp).packer = ⟨setBit s.packer.acc s.pos.pixX.toNat (binarize smp), s.pos.pixX + 1#3⟩ ∧
      (s.pos.advance s.geom).2 = false) := by
  constructor
  · intro h7
    have h7' : s.packer.cnt = 7#3 := by
      rw [hc]
      exact BitVec.eq_of_toNat_eq h7
    rcases s.push_cases (binarize smp) with ⟨_, e⟩ | ⟨hh, e⟩
    · simp only [State.processSample, e, h7']
      split
      · rcases (((s.setPacker Packer.empty).byteEmit (setBit s.packer.acc (7#3).toNat (binarize smp))).setPos
          (s.pos.advance s.geom).1).flush_cases with ⟨_, e'⟩ | ⟨h', _⟩
        · rw [e']
          exact ⟨rfl, rfl⟩
        · exact absurd rfl h'
      · exact ⟨rfl, rfl⟩
    · rw [h7'] at hh
      exact absurd hh (by decide)
  · intro h7
    have hl : (s.pos.advance s.geom).2 = false := by
      rcases s.pos.advance_cases s.geom with ⟨_, e⟩ | ⟨a, _⟩ | ⟨a, _⟩ | ⟨a, _⟩ | ⟨a, _⟩ | ⟨a, _⟩ | ⟨a, _⟩
      · rw [e]
      all_goals omega
    rcases s.push_cases (binarize smp) with ⟨hh, _⟩ | ⟨_, e⟩
    · rw [hc] at hh
      rw [hh] at h7
      exact absurd h7 (by decide)
    · simp only [State.processSample, e, hl, hc]
      exact ⟨rfl, rfl, trivial⟩

end Sys2Proof.Machine
end

