-- ==== Sys2Proof/Laws/Memory.lean ====
section
/-! SUPPORT. Laws of the pixel space: read after write, and that a write keeps the canonical form. -/

namespace Sys2Proof.Machine

open Sys2Proof

/-- A byte written is read back, and every other address reads as before. -/
theorem Memory.read_write (m : Memory) (a k : Nat) (b : Byte) :
    (m.write a b).read k = if a = k then some b else m.read k := by
  induction m with
  | nil => simp [Memory.write, Memory.read]
  | cons c m ih =>
    obtain ⟨c, v⟩ := c
    simp only [Memory.write]
    split
    · simp [Memory.read]
    · split
      · subst_vars
        simp only [Memory.read]
        split <;> simp_all
      · simp only [Memory.read, ih]
        split <;> split <;> simp_all

/-- The byte written is read back. -/
@[simp] theorem Memory.read_write_same (m : Memory) (a : Nat) (b : Byte) : (m.write a b).read a = some b := by
  simp [Memory.read_write]

/-- A write leaves every other address alone. -/
theorem Memory.read_write_other (m : Memory) {a k : Nat} (b : Byte) (h : a ≠ k) :
    (m.write a b).read k = m.read k := by
  simp [Memory.read_write, h]

/-- The canonical form, seen from its head. -/
theorem Memory.wf_cons (a : Nat) (b : Byte) (m : Memory) :
    Memory.wf ((a, b) :: m) = true ↔ (∀ c ∈ m.head?, a < c.1) ∧ m.wf = true := by
  cases m with
  | nil => simp [Memory.wf]
  | cons c m => obtain ⟨k, v⟩ := c; simp [Memory.wf]

/-- The least address after a write is the old least one or the one written. -/
theorem Memory.head_write (m : Memory) (a : Nat) (b : Byte) :
    ∀ c ∈ (m.write a b).head?, c.1 = a ∨ ∃ d ∈ m.head?, d.1 = c.1 := by
  cases m with
  | nil => simp [Memory.write]
  | cons d m =>
    obtain ⟨k, v⟩ := d
    simp only [Memory.write]
    split
    · simp
    · split <;> simp

/-- A write keeps the canonical form. -/
theorem Memory.wf_write (m : Memory) (a : Nat) (b : Byte) (h : m.wf = true) : (m.write a b).wf = true := by
  induction m with
  | nil => rfl
  | cons c m ih =>
    obtain ⟨k, v⟩ := c
    have hk := (Memory.wf_cons k v m).1 h
    simp only [Memory.write]
    split
    · rename_i hlt
      exact (Memory.wf_cons _ _ _).2 ⟨by simpa using hlt, h⟩
    · split
      · subst_vars
        exact (Memory.wf_cons _ _ _).2 hk
      · refine (Memory.wf_cons _ _ _).2 ⟨fun c hc => ?_, ih hk.2⟩
        rcases Memory.head_write m a b c hc with h | ⟨d, hd, h⟩
        · omega
        · exact h ▸ hk.1 d hd

/-- Presenting a sample keeps the canonical form. -/
theorem Memory.wf_putSample (m : Memory) (px py : Nat) (s : Sample) (h : m.wf = true) :
    (m.putSample px py s).wf = true :=
  Memory.wf_write _ _ _ (Memory.wf_write _ _ _ (Memory.wf_write _ _ _ (Memory.wf_write _ _ _ h)))

/-- The lanes of the samples inside the space do not overlap. -/
theorem pixelKey_inj {px py px' py' l l' : Nat} (hx : px < 65536) (hx' : px' < 65536) (hl : l < 4) (hl' : l' < 4) :
    pixelKey px py l = pixelKey px' py' l' ↔ px = px' ∧ py = py' ∧ l = l' := by
  unfold pixelKey
  constructor
  · intro h; omega
  · rintro ⟨rfl, rfl, rfl⟩; rfl

/-- The sample word of R70 gives its four channels back. -/
@[simp] theorem Sample.ofWord_toWord (s : Sample) : Sample.ofWord s.toWord = s := by
  obtain ⟨r, g, b, a⟩ := s
  simp only [Sample.ofWord, Sample.toWord, Sample.mk.injEq]
  refine ⟨?_, ?_, ?_, ?_⟩ <;> ext i hi <;> simp <;> grind

/-- A sample presented at a pixel of the space is what PixRead returns there. -/
theorem pixRead_putSample_same (m : Memory) {px py : Nat} (s : Sample) (hx : px < 65536) (hy : py < 65536) :
    pixRead (m.putSample px py s) px py = some s := by
  have hw : s.toWord.extractLsb' 24 8 ++ s.toWord.extractLsb' 16 8 ++ s.toWord.extractLsb' 8 8 ++
      s.toWord.extractLsb' 0 8 = s.toWord := by
    ext i hi
    simp
    grind
  simp [pixRead, hx, hy, Memory.putSample, Memory.read_write, pixelKey_inj hx hx, hw]

/-- A sample presented at one pixel leaves every other pixel of the space alone. -/
theorem pixRead_putSample_other (m : Memory) {px py px' py' : Nat} (s : Sample) (hx : px < 65536)
    (h : (px, py) ≠ (px', py')) : pixRead (m.putSample px py s) px' py' = pixRead m px' py' := by
  unfold pixRead
  split
  · rename_i hb
    have hne : ∀ l l', l < 4 → l' < 4 → pixelKey px py l ≠ pixelKey px' py' l' := fun l l' hl hl' he =>
      h (by obtain ⟨h1, h2, -⟩ := (pixelKey_inj hx hb.1 hl hl').1 he; simp [h1, h2])
    simp [Memory.putSample, Memory.read_write, hne]
  · rfl

end Sys2Proof.Machine
end

