-- ==== Sys2Proof/Laws/PerInstr.lean ====
section
/-! SUPPORT. The statements made per instruction. RoundTrip: a well-formed operation that has an encoding comes back from
its word, with every operand. -/

namespace Sys2Proof.Laws.RoundTrip

open Sys2Proof

/-- The word of a well-formed operation decodes to it. -/
def Statement (i : Instr) : Prop := i.wellFormed = true → ∀ pw, encode i = some pw → decodeWord pw = i

theorem nop : Statement (.nop) := by
  rintro - pw ⟨⟩
  rfl

theorem start : Statement (.start) := by
  rintro - pw ⟨⟩
  rfl

theorem clear : Statement (.clear) := by
  rintro - pw ⟨⟩
  rfl

theorem cmdReserved (data : Word) : Statement (.cmdReserved data) := by
  rintro hw pw ⟨⟩
  simp only [Instr.wellFormed, Bool.and_eq_true, decide_eq_true_eq] at hw
  simp [decodeWord, decodeHt, Reg.ofNumber, decodeCommand, hw]

theorem wrImgW (v : Word) : Statement (.wrImgW v) := by
  rintro - pw ⟨⟩
  simp [decodeWord, decodeHt, Reg.ofNumber]

theorem wrImgH (v : Word) : Statement (.wrImgH v) := by
  rintro - pw ⟨⟩
  simp [decodeWord, decodeHt, Reg.ofNumber]

theorem wrGw (v : Word) : Statement (.wrGw v) := by
  rintro - pw ⟨⟩
  simp [decodeWord, decodeHt, Reg.ofNumber]

theorem wrGh (v : Word) : Statement (.wrGh v) := by
  rintro - pw ⟨⟩
  simp [decodeWord, decodeHt, Reg.ofNumber]

theorem wrreg (n : Reg) (v : Word) : Statement (.wrreg n v) := by
  rintro hw pw ⟨⟩
  cases n <;> simp_all [Instr.wellFormed, Reg.isInput, decodeWord, decodeHt]

theorem rdreg (n : Reg) (data : Word) : Statement (.rdreg n data) := by
  rintro - pw ⟨⟩
  simp [decodeWord, decodeHt]

theorem htReserved (we : BitVec 1) (zero : BitVec 3) (reg : BitVec 4) (data : Word) : Statement (.htReserved we zero reg data) := by
  rintro hw pw ⟨⟩
  simp only [Instr.wellFormed, decide_eq_true_eq] at hw
  simp [decodeWord, decodeHt, hw]

theorem step : Statement (.step) := by
  rintro - pw ⟨⟩
  rfl

theorem hold (ss : BitVec 2) : Statement (.hold ss) := by
  rintro hw pw ⟨⟩
  simp only [Instr.wellFormed, decide_eq_true_eq] at hw
  simp [decodeWord, decodeSeq, hw]

theorem bpidle (bit : BitVec 1) : Statement (.bpidle bit) := by
  rintro - pw ⟨⟩
  simp [decodeWord, decodeBpw]

theorem push0 : Statement (.push0) := by
  rintro - pw ⟨⟩
  rfl

theorem push1 : Statement (.push1) := by
  rintro - pw ⟨⟩
  rfl

theorem flush (bit : BitVec 1) : Statement (.flush bit) := by
  rintro - pw ⟨⟩
  simp [decodeWord, decodeBpw]

theorem bpwReserved (bit : BitVec 1) : Statement (.bpwReserved bit) := by
  rintro - pw ⟨⟩
  simp [decodeWord, decodeBpw]

theorem bin (s : Sample) : Statement (.bin s) := by
  rintro - pw ⟨⟩

theorem coord : Statement (.coord) := by
  rintro - pw ⟨⟩

theorem next : Statement (.next) := by
  rintro - pw ⟨⟩

theorem wait : Statement (.wait) := by
  rintro - pw ⟨⟩

theorem encode (w : Word) (h : Word) (gw : Word) (gh : Word) : Statement (.encode w h gw gh) := by
  rintro - pw ⟨⟩

end Sys2Proof.Laws.RoundTrip
end

