-- ==== Sys2Proof/Tests/Slice0.lean ====
section
/-! SUPPORT. Tests on fixed values taken from the spec's encodings and test vectors (95_test_vectors.md), the smoke test
of WellFormed, and for every obligation with hypotheses a witness that meets them. -/

namespace Sys2Proof.Tests

open Sys2Proof Sys2Proof.Machine Sys2Proof.Claims

/-! ## WellFormed: an ill-formed term for each check, refused -/

theorem test_illformed_cmdReserved_nop : (Instr.cmdReserved 0x0000#16).wellFormed = false := by decide
theorem test_illformed_cmdReserved_start : (Instr.cmdReserved 0x0001#16).wellFormed = false := by decide
theorem test_illformed_cmdReserved_clear : (Instr.cmdReserved 0x0002#16).wellFormed = false := by decide
theorem test_illformed_wrreg_cmd : (Instr.wrreg .cmd 0x0001#16).wellFormed = false := by decide
theorem test_illformed_wrreg_input : ∀ n ∈ [Reg.imgW, .imgH, .gw, .gh], (Instr.wrreg n 0#16).wellFormed = false := by
  decide
theorem test_illformed_htReserved : (Instr.htReserved 1#1 0#3 0#4 1#16).wellFormed = false := by decide
theorem test_illformed_hold_run : (Instr.hold 0b01#2).wellFormed = false := by decide

/-! ## Decoding: words written out from 30_encoding.md (sections 1 to 3) -/

/-- The fixed words of 30_encoding.md section 1. -/
theorem test_decode_commands :
    decodeHt 0b1_000_0000_0000000000000000#24 = .nop ∧ decodeHt 0b1_000_0000_0000000000000001#24 = .start ∧
    decodeHt 0b1_000_0000_0000000000000010#24 = .clear := by decide

/-- R64: 0x800003 and 0x800101 (T83, T84). -/
theorem test_decode_cmdReserved :
    decodeHt 0x800003#24 = .cmdReserved 0x0003#16 ∧ decodeHt 0x800101#24 = .cmdReserved 0x0101#16 := by decide

/-- 0x8n0000 + v: the words of programs P1 and P2. -/
theorem test_decode_inputs :
    decodeHt 0x820008#24 = .wrImgW 8#16 ∧ decodeHt 0x830010#24 = .wrImgH 16#16 ∧
    decodeHt 0x840002#24 = .wrGw 2#16 ∧ decodeHt 0x850001#24 = .wrGh 1#16 := by decide

/-- WRREG's general row: T76, T77 and the highest register. -/
theorem test_decode_wrreg :
    decodeHt 0x810002#24 = .wrreg .status 2#16 ∧ decodeHt 0x8E00FF#24 = .wrreg .acc 0x00FF#16 ∧
    decodeHt 0b1_000_1111_1000000000000001#24 = .wrreg .cnt 0x8001#16 := by decide

/-- RDREG: RD STATUS, RD ERR, and DATA bits that a read ignores. -/
theorem test_decode_rdreg :
    decodeHt 0x010000#24 = .rdreg .status 0#16 ∧ decodeHt 0x070000#24 = .rdreg .err 0#16 ∧
    decodeHt 0b0_000_1101_0000000000000001#24 = .rdreg .pixX 1#16 := by decide

/-- R61: T87, and ZERO in a read. -/
theorem test_decode_htReserved :
    decodeHt 0x900001#24 = .htReserved 1#1 1#3 0#4 1#16 ∧
    decodeHt 0b0_100_0001_0000000000000000#24 = .htReserved 0#1 4#3 1#4 0#16 := by decide

/-- R65: the four STATE values. -/
theorem test_decode_seq :
    decodeSeq 0b00#2 = .hold 0b00#2 ∧ decodeSeq 0b01#2 = .step ∧ decodeSeq 0b10#2 = .hold 0b10#2 ∧
    decodeSeq 0b11#2 = .hold 0b11#2 := by decide

/-- R67: the eight port words. -/
theorem test_decode_bpw :
    decodeBpw 0b000#3 = .bpidle 0#1 ∧ decodeBpw 0b001#3 = .bpidle 1#1 ∧ decodeBpw 0b010#3 = .push0 ∧
    decodeBpw 0b011#3 = .push1 ∧ decodeBpw 0b100#3 = .flush 0#1 ∧ decodeBpw 0b101#3 = .flush 1#1 ∧
    decodeBpw 0b110#3 = .bpwReserved 0#1 ∧ decodeBpw 0b111#3 = .bpwReserved 1#1 := by decide

/-- R10: every register number, as RDREG's 0x0n0000. -/
theorem test_decode_register_numbers :
    (List.range 16).map (fun n => decodeHt (BitVec.ofNat 24 (n * 0x10000))) =
      [Reg.cmd, .status, .imgW, .imgH, .gw, .gh, .fmt, .err, .charY, .charX, .subY, .subX, .pixY, .pixX, .acc,
        .cnt].map (fun r => .rdreg r 0#16) := by decide

/-- A word's bytes, the least significant first (log 14), and what follows them. -/
theorem test_decode_bytes :
    (decode .ht [0x08#8, 0x00#8, 0x82#8, 0xAA#8]).toOption = some (.wrImgW 8#16, [0xAA#8]) ∧
    (decode .seq [0x01#8]).toOption = some (.step, []) := by decide

/-- Bytes that are no word of a port are rejected by name. -/
theorem test_decode_rejects :
    (match decode .ht [0x01#8, 0x00#8] with | .error e => decide (e = .truncated .ht) | .ok _ => false) = true ∧
    (match decode .bpw [0x08#8] with | .error e => decide (e = .strayBits .bpw) | .ok _ => false) = true ∧
    (match decode .seq [] with | .error e => decide (e = .truncated .seq) | .ok _ => false) = true := by decide

/-- The table's own numbering: words of opcode_table.json. -/
theorem test_decodeTableWord :
    decodeTableWord 24 0x800001 = some .start ∧ decodeTableWord 24 0x860000 = some (.wrreg .fmt 0#16) ∧
    decodeTableWord 8 0x01 = some .step ∧ decodeTableWord 8 0x03 = some .push1 ∧
    decodeTableWord 8 0x06 = some (.bpwReserved 0#1) ∧ decodeTableWord 8 0x10 = none ∧
    decodeTableWord 16 0 = none := by decide

/-- R70: the lanes of a sample word. -/
theorem test_sample_word : Sample.ofWord 0x80FF7F01#32 = ⟨0x01#8, 0x7F#8, 0xFF#8, 0x80#8⟩ := by decide

/-- What the host runs first after reset is the word it placed. -/
theorem test_withFetchWord :
    (fetch (State.reset.withFetchWord 24 0x840002)).1 = .run (.wrGw 2#16) ∧
    (fetch (State.reset.withFetchWord 8 0x01)).1 = .run .step ∧
    (fetch (State.reset.withFetchWord 8 0x04)).1 = .run (.flush 0#1) := by decide

/-! ## Small states -/

/-- The state after a step that has one. -/
def after (o : Host.Outcome State Fault Refusal) : Option State :=
  match o with
  | .next t => some t
  | .fault _ => none
  | .refused _ => none

/-- What an operation leaves, seen through `f`. -/
def seen {α : Type} (i : Instr) (s : State) (f : State → α) : Option α := (after (exec i s)).map f

/-- Four inputs and a STATE, everything else as after reset. -/
def block (c : CallState) (w h gw gh : Word) : State :=
  { State.reset with status := c, geom := ⟨w, h, gw, gh⟩ }

/-- WHITE of 95_test_vectors.md. -/
def white : Sample := ⟨255#8, 255#8, 255#8, 255#8⟩
/-- BLACK of 95_test_vectors.md. -/
def black : Sample := ⟨0#8, 0#8, 0#8, 255#8⟩

/-- STATE and ERR after START. -/
def started (s : State) : Option (Nat × Nat) := seen .start s fun t => (val t .status, val t .err)

/-! ## Host operations (95_test_vectors.md B6) -/

/-- T60, T68 and T72: accepted, empty sheet, from DONE. -/
theorem test_start_accepted :
    started (block .idle 8#16 8#16 1#16 1#16) = some (1, 0) ∧ started (block .idle 0#16 8#16 1#16 1#16) = some (2, 0) ∧
    seen .start { block .done 8#16 8#16 1#16 1#16 with out := [1#8] } (fun t => (t.status, t.out)) =
      some (.run, []) := by decide

/-- T61 to T67 and T70: the rejections. -/
theorem test_start_rejected :
    started (block .idle 12#16 8#16 1#16 1#16) = some (3, 0x6) ∧ started (block .idle 16#16 8#16 1#16 2#16) = some (3, 0xA) ∧
    started (block .idle 12#16 12#16 1#16 1#16) = some (3, 0xE) ∧ started (block .idle 16#16 8#16 0#16 1#16) = some (3, 0x5) ∧
    started (block .idle 16#16 8#16 1#16 0#16) = some (3, 0x9) ∧ started State.reset = some (3, 0xD) ∧
    started (block .idle 8#16 8#16 2#16 1#16) = some (3, 0x6) ∧ started (block .idle 0#16 8#16 0#16 1#16) = some (3, 0x5) := by
  decide

/-- T79 and T80. -/
theorem test_clear :
    seen .clear { block .err 12#16 12#16 1#16 1#16 with errCode := 2#2, errInfo := 3#2 }
      (fun t => (t.status, val t .err)) = some (.idle, 0) ∧
    seen .clear (block .run 8#16 8#16 1#16 1#16) (·.status) = some .run := by decide

/-- T74 and T75. -/
theorem test_wrGw :
    seen (.wrGw 2#16) State.reset (fun t => t.reg .gw) = some 2#16 ∧
    seen (.wrGw 5#16) (block .run 8#16 8#16 1#16 1#16) (fun t => t.reg .gw) = some 1#16 := by decide

/-- WR IMG_W, 12 of P4, then the write in ERR. -/
theorem test_wrImgW :
    seen (.wrImgW 16#16) (block .err 12#16 8#16 1#16 1#16) (fun t => (t.reg .imgW, t.reg .imgH)) =
      some (16#16, 8#16) := by decide

/-- WR IMG_H, 16 of P2. -/
theorem test_wrImgH :
    seen (.wrImgH 16#16) (block .idle 8#16 0#16 0#16 0#16) (fun t => (t.reg .imgW, t.reg .imgH)) =
      some (8#16, 16#16) := by decide

/-- WR GH, 2 of P2. -/
theorem test_wrGh :
    seen (.wrGh 2#16) (block .idle 8#16 16#16 1#16 0#16) (fun t => (t.reg .gw, t.reg .gh)) = some (1#16, 2#16) := by
  decide

/-- T76, T77: read-only registers. -/
theorem test_wrreg_readonly :
    after (exec (.wrreg .status 2#16) State.reset) = some State.reset ∧
    after (exec (.wrreg .acc 0xFF#16) State.reset) = some State.reset := by decide

/-- RD ERR after T61 (0x0006), RD STATUS after it (0x0003). -/
theorem test_rdreg :
    seen (.rdreg .err 0#16) { block .err 12#16 8#16 1#16 1#16 with errCode := 2#2, errInfo := 1#2 } (·.rdata) =
      some (some 0x0006#16) ∧
    seen (.rdreg .status 0#16) (block .err 12#16 8#16 1#16 1#16) (·.rdata) = some (some 0x0003#16) := by decide

/-- T85, T86: RD FMT and RD CMD return 0. -/
theorem test_rdreg_zero :
    seen (.rdreg .fmt 0#16) State.reset (·.rdata) = some (some 0#16) ∧
    seen (.rdreg .cmd 0#16) (block .run 8#16 8#16 1#16 1#16) (·.rdata) = some (some 0#16) := by decide

/-- T82, T83, T84, T87: no effect. -/
theorem test_no_effect :
    ∀ i ∈ [Instr.nop, .cmdReserved 3#16, .cmdReserved 0x101#16, .htReserved 1#1 1#3 0#4 1#16, .hold 0#2, .bpidle 1#1,
      .bpwReserved 0#1], after (exec i (block .idle 8#16 8#16 1#16 1#16)) = some (block .idle 8#16 8#16 1#16 1#16) := by
  decide

/-! ## The bit packer (95_test_vectors.md B5) -/

/-- A state with ACC and CNT. -/
def packing (acc : Byte) (cnt : BitVec 3) : State := { State.reset with packer := ⟨acc, cnt⟩ }

/-- The trace of T50: PUSH1 at CNT 1 and at CNT 7. -/
theorem test_push1 :
    seen .push1 (packing 0x00#8 1#3) (fun t => (t.packer, t.out)) = some (⟨0x02#8, 2#3⟩, []) ∧
    seen .push1 (packing 0x7E#8 7#3) (fun t => (t.packer, t.out)) = some (⟨0x00#8, 0#3⟩, [0xFE#8]) := by decide

/-- The trace of T50: PUSH0; and PUSH0 clears the place it writes. -/
theorem test_push0 :
    seen .push0 (packing 0x00#8 0#3) (fun t => (t.packer, t.out)) = some (⟨0x00#8, 1#3⟩, []) ∧
    seen .push0 (packing 0xFF#8 7#3) (fun t => (t.packer, t.out)) = some (⟨0x00#8, 0#3⟩, [0x7F#8]) := by decide

/-- T57 (P9): 1 0 1 and FLUSH give 05; a FLUSH of an empty group gives nothing. -/
theorem test_flush :
    seen (.flush 0#1) (packing 0x05#8 3#3) (fun t => (t.packer, t.out)) = some (⟨0x00#8, 0#3⟩, [0x05#8]) ∧
    seen (.flush 1#1) (packing 0x00#8 0#3) (fun t => (t.packer, t.out)) = some (⟨0x00#8, 0#3⟩, []) := by decide

/-- T50, T53, T57, T58 under both orders. -/
theorem test_pack :
    pack .lsbFirst false [false, true, true, true, true, true, true, true] = [0xFE#8] ∧
    pack .msbFirst false [false, true, true, true, true, true, true, true] = [0x7F#8] ∧
    pack .lsbFirst false [true, true, false, false, true, false, true, false] = [0x53#8] ∧
    pack .msbFirst false [true, false, true] = [0xA0#8] ∧
    pack .lsbFirst false [true, true, true, true, true, true, true, true, true] = [0xFF#8, 0x01#8] := by decide

/-! ## BIN (95_test_vectors.md B1) -/

/-- T3, T4, T5, T7, T8, T12, T14, T15, T16, T18, T19. -/
theorem test_bin_rows :
    [(⟨127#8, 127#8, 128#8, 255#8⟩ : Sample), ⟨128#8, 127#8, 127#8, 255#8⟩, ⟨127#8, 128#8, 128#8, 255#8⟩,
      ⟨255#8, 127#8, 0#8, 255#8⟩, ⟨255#8, 128#8, 0#8, 255#8⟩, ⟨255#8, 255#8, 0#8, 255#8⟩,
      ⟨255#8, 255#8, 255#8, 128#8⟩, ⟨255#8, 255#8, 255#8, 127#8⟩, ⟨255#8, 255#8, 255#8, 0#8⟩,
      ⟨128#8, 128#8, 127#8, 128#8⟩, ⟨128#8, 128#8, 126#8, 128#8⟩].map binarize =
    [false, false, true, false, true, true, true, false, false, true, false] := by decide

/-- T5 as an operation. -/
theorem test_bin : seen (.bin ⟨127#8, 128#8, 128#8, 255#8⟩) State.reset (·.fnResult) = some (some (.bit true)) := by
  decide

/-! ## The traversal (95_test_vectors.md B2 to B4) -/

/-- The 32 by 16 sheet of B3 and B4, at a position. -/
def wide (p : Position) : State := { block .run 32#16 16#16 2#16 2#16 with pos := p }

/-- T37: COORD. -/
theorem test_coord : seen .coord (wide ⟨0#16, 16#16, 1#16, 0#16, 1#3, 1#3⟩) (·.fnResult) =
    some (some (.coord 17 9)) := by decide

/-- T45 to T49a. -/
theorem test_next :
    [(⟨0#16, 0#16, 0#16, 0#16, 0#3, 6#3⟩ : Position), ⟨0#16, 0#16, 0#16, 0#16, 0#3, 7#3⟩,
      ⟨0#16, 0#16, 0#16, 0#16, 7#3, 7#3⟩, ⟨0#16, 0#16, 0#16, 1#16, 7#3, 7#3⟩, ⟨0#16, 0#16, 1#16, 1#16, 7#3, 7#3⟩,
      ⟨0#16, 16#16, 1#16, 1#16, 7#3, 7#3⟩].map (fun p => seen .next (wide p) (fun t => (t.pos, t.fnResult))) =
    [some (⟨0#16, 0#16, 0#16, 0#16, 0#3, 7#3⟩, some (.last false)), some (⟨0#16, 0#16, 0#16, 0#16, 1#3, 0#3⟩, some (.last false)),
      some (⟨0#16, 0#16, 0#16, 1#16, 0#3, 0#3⟩, some (.last false)), some (⟨0#16, 0#16, 1#16, 0#16, 0#3, 0#3⟩, some (.last false)),
      some (⟨0#16, 16#16, 0#16, 0#16, 0#3, 0#3⟩, some (.last false)), some (Position.zero, some (.last true))] := by decide

/-- T49c: CHAR_X into CHAR_Y. -/
theorem test_next_charY :
    seen .next { block .run 16#16 16#16 1#16 1#16 with pos := ⟨0#16, 8#16, 0#16, 0#16, 7#3, 7#3⟩ } (·.pos) =
      some ⟨8#16, 0#16, 0#16, 0#16, 0#3, 0#3⟩ := by decide

/-- T43 and T44 (48 by 32, GW 3, GH 2), T37 backwards. -/
theorem test_bitIndex :
    (⟨16, 24, 0, 0, 0, 0⟩ : Loop).bitIndex ⟨48, 32, 3, 2⟩ = 1152 ∧
    loopOfPixel ⟨48, 32, 3, 2⟩ 47 31 = ⟨16, 24, 1, 2, 7, 7⟩ ∧ loopOfIndex ⟨32, 16, 2, 2⟩ 393 = ⟨0, 16, 1, 0, 1, 1⟩ := by
  decide

/-! ## STEP, WAIT, ENCODE, reset -/

/-- The pixel space with one sample. -/
def onePixel (px py : Nat) (smp : Sample) : Memory := Memory.putSample [] px py smp

/-- A call of P1 at a position, with the one sample it reads next. -/
def stepping (p : Position) (k : Packer) (smp : Sample) : State :=
  { block .run 8#16 8#16 1#16 1#16 with pos := p, packer := k, pixels := onePixel p.px p.py smp }

/-- STEP 8 and STEP 1 of P1: the WHITE pixel (7, 0) completes FE; the BLACK pixel (0, 0) only counts. -/
theorem test_step :
    seen .step (stepping ⟨0#16, 0#16, 0#16, 0#16, 0#3, 7#3⟩ ⟨0x7E#8, 7#3⟩ white)
      (fun t => (t.pos, t.packer, t.out, t.status)) =
      some (⟨0#16, 0#16, 0#16, 0#16, 1#3, 0#3⟩, ⟨0#8, 0#3⟩, [0xFE#8], .run) ∧
    seen .step (stepping Position.zero Packer.empty black) (fun t => (t.packer, t.out)) = some (⟨0#8, 1#3⟩, []) := by decide

/-- STEP 64 of P1: the last pixel ends the call. -/
theorem test_step_last :
    seen .step (stepping ⟨0#16, 0#16, 0#16, 0#16, 7#3, 7#3⟩ ⟨0x7F#8, 7#3⟩ white)
      (fun t => (t.pos, t.packer, t.out, t.status)) =
      some (Position.zero, ⟨0#8, 0#3⟩, [0xFF#8], .done) := by decide

/-- R76: WAIT in RUN goes on after a turn; in DONE it is over. -/
theorem test_wait :
    seen .wait (block .run 8#16 8#16 1#16 1#16) (fun t => (t.rdata, t.agenda)) =
      some (some 1#16, [.sequencer, .operation .wait]) ∧
    seen .wait (block .done 8#16 8#16 1#16 1#16) (fun t => (t.rdata, t.agenda)) = some (some 2#16, []) := by decide

/-- The host words of P2. -/
theorem test_encode :
    seen (.encode 8#16 16#16 1#16 2#16) State.reset (·.agenda) =
      some [.host 0x820008#24, .host 0x830010#24, .host 0x840001#24, .host 0x850002#24, .host 0x800001#24,
        .operation .wait] := by decide

/-- R160: reset in the middle of a call. -/
theorem test_reset :
    (after (step { wide ⟨0#16, 16#16, 1#16, 0#16, 1#3, 1#3⟩ with out := [1#8], agenda := [.reset] })).map
      (fun t => (t.status, t.geom, t.pos, t.out)) = some (.idle, Geometry.zero, Position.zero, []) := by decide

/-- Reset memory is canonical, and a sample presented keeps it so. -/
theorem test_memory_wf : Memory.wf State.reset.pixels = true ∧ Memory.wf (onePixel 7 0 white) = true := by decide

/-! ## A whole image in the pixel space -/

/-- The pixel space with the samples of an image at the listed pixels. -/
def paint (img : Nat → Nat → Sample) : List (Nat × Nat) → Memory
  | [] => []
  | (px, py) :: l => (paint img l).putSample px py (img px py)

theorem pixRead_paint (img : Nat → Nat → Sample) (px py : Nat) :
    ∀ l : List (Nat × Nat), (∀ q ∈ l, q.1 < 65536 ∧ q.2 < 65536) → (px, py) ∈ l →
      pixRead (paint img l) px py = some (img px py)
  | [], _, h => by simp at h
  | (qx, qy) :: l, hb, h => by
    by_cases he : (qx, qy) = (px, py)
    · obtain ⟨rfl, rfl⟩ := Prod.mk.inj he
      exact pixRead_putSample_same _ _ (hb _ List.mem_cons_self).1 (hb _ List.mem_cons_self).2
    · rw [paint, pixRead_putSample_other _ _ (hb _ List.mem_cons_self).1 he]
      refine pixRead_paint img px py l (fun q hq => hb q (by simp [hq])) ?_
      rcases List.mem_cons.1 h with h | h
      · exact absurd h.symm he
      · exact h

theorem wf_paint (img : Nat → Nat → Sample) : ∀ l, Memory.wf (paint img l) = true
  | [] => rfl
  | (_, _) :: l => Memory.wf_putSample _ _ _ _ (wf_paint img l)

/-- The 64 pixels of an 8 by 8 sheet. -/
def cell : List (Nat × Nat) := (List.range 8).flatMap fun px => (List.range 8).map fun py => (px, py)

theorem mem_cell : ∀ px, px < 8 → ∀ py, py < 8 → (px, py) ∈ cell := by decide

/-- The image of P1: (0, 0) is BLACK, every other pixel WHITE. -/
def imageP1 (px py : Nat) : Sample := if px = 0 ∧ py = 0 then black else white

/-- The pixel space of P1. -/
@[irreducible] def pixelsP1 : Memory := paint imageP1 cell

theorem holdsP1 : HoldsImage pixelsP1 imageP1 8 8 := fun px hx py hy => by
  unfold pixelsP1
  exact pixRead_paint _ _ _ _ (by decide) (mem_cell px hx py hy)

theorem wfP1 : pixelsP1.wf = true := by
  unfold pixelsP1
  exact wf_paint _ _

/-- A block of P1 with its image. -/
def p1 (c : CallState) : State := { block c 8#16 8#16 1#16 1#16 with pixels := pixelsP1 }

theorem p1_imagePresent (c : CallState) : (p1 c).imagePresent := fun px hx py hy => by
  show (pixRead pixelsP1 px py).isSome = true
  rw [holdsP1 px hx py hy]
  rfl

/-- P1 right after START (T60) is a running call of R28. -/
theorem p1_inv : (p1 .run).Inv where
  inRun _ :=
    { gwPos := by decide, ghPos := by decide, wideEnough := by decide, tallEnough := by decide
      widthTiles := by decide, heightTiles := by decide, charXAligned := by decide, charXInside := by decide
      charYAligned := by decide, charYInside := by decide, subXInside := by decide, subYInside := by decide
      cntIsPixX := rfl, accUnfilled := fun i _ _ => by simp [p1, block, State.reset, Packer.empty]
      noError := by decide, outLength := by decide }
  atRest h := absurd rfl h
  errExactly := by decide
  errLegal := by decide
  pixelsWf := wfP1
  driven := rfl

/-- P1 after STEP 7: CNT = PIX_X = 7, ACC = 7E (95_test_vectors.md P1). -/
def p1Seven : State := { p1 .run with pos := ⟨0#16, 0#16, 0#16, 0#16, 0#3, 7#3⟩, packer := ⟨0x7E#8, 7#3⟩ }

theorem p1Seven_inv : p1Seven.Inv where
  inRun _ :=
    { gwPos := by decide, ghPos := by decide, wideEnough := by decide, tallEnough := by decide
      widthTiles := by decide, heightTiles := by decide, charXAligned := by decide, charXInside := by decide
      charYAligned := by decide, charYInside := by decide, subXInside := by decide, subYInside := by decide
      cntIsPixX := rfl
      accUnfilled := fun i h7 h8 => by
        have h : i = 7 := by
          have : 7 ≤ i := h7
          omega
        subst h
        decide
      noError := by decide, outLength := by decide }
  atRest h := absurd rfl h
  errExactly := by decide
  errLegal := by decide
  pixelsWf := wfP1
  driven := rfl

/-- STEP at P1's first pixel. -/
theorem p1_step : exec .step (p1 .run) = .next ((p1 .run).processSample black) :=
  exec_step_some (holdsP1 0 (by decide) 0 (by decide))

/-- STEP at the end of P1's first row. -/
theorem p1Seven_step : exec .step p1Seven = .next (p1Seven.processSample white) :=
  exec_step_some (holdsP1 7 (by decide) 0 (by decide))

/-! ## Witnesses: for each obligation with hypotheses, values that meet them (each clause, at its bounds) -/

theorem witness_ResetFromAnyState :
    ({ p1 .run with agenda := [.reset, .sequencer] } : State).agenda = .reset :: [.sequencer] := rfl

theorem witness_StepRunsTheDecodedOperation :
    ({ p1 .run with agenda := [.host 0x840002#24, .reset] } : State).agenda = [.host 0x840002#24, .reset] ∧
    encode (.wrGw 2#16) = some (.ht 0x840002#24) ∧ (Instr.wrGw 2#16).wellFormed = true ∧
    ({ p1 .run with agenda := [.packer 0b011#3, .reset] } : State).agenda = [.packer 0b011#3, .reset] ∧
    encode .push1 = some (.bpw 0b011#3) ∧ Instr.push1.wellFormed = true ∧
    ({ p1 .run with agenda := [.operation .coord] } : State).agenda = [.operation .coord] ∧
    ({ p1 .run with agenda := [.sequencer, .reset] } : State).agenda = [.sequencer, .reset] ∧
    encode .step = some (.seq (p1 .run).status.bits) ∧ Instr.step.wellFormed = true ∧ (p1 .run).agenda = [] ∧
    encode (.hold 0b10#2) = some (.seq (p1 .done).status.bits) ∧ (Instr.hold 0b10#2).wellFormed = true ∧
    (p1 .done).agenda = [] := by
  decide

theorem witness_SequencerStepsOnlyInRun :
    ∀ c : CallState, (block c 8#16 8#16 1#16 1#16).agenda = [] ∧
      (c = .run → val (block c 8#16 8#16 1#16 1#16) .status = 0b01) ∧
      (c ≠ .run → val (block c 8#16 8#16 1#16 1#16) .status ≠ 0b01) := by
  intro c
  cases c <;> decide

theorem witness_EncodedOperationsDecodeBack :
    (Instr.htReserved 1#1 7#3 15#4 0xFFFF#16).wellFormed = true ∧
    encode (.htReserved 1#1 7#3 15#4 0xFFFF#16) = some (.ht 0xFFFFFF#24) ∧
    (Instr.bin white).wellFormed = true ∧ encode (.bin white) = none := by decide

theorem witness_EveryWordHasOneOperation :
    (Instr.cmdReserved 0xFFFF#16).wellFormed = true ∧ encode (.cmdReserved 0xFFFF#16) = some (.ht 0x80FFFF#24) := by
  decide

theorem witness_ReservedHostWordIsNoTransaction :
    (0x900001#24).extractLsb' 20 3 ≠ 0#3 ∧ (0x700000#24).extractLsb' 20 3 = 7#3 ∧
    ({ State.reset with agenda := [.host 0x900001#24] } : State).agenda = [.host 0x900001#24] := by decide

theorem witness_NopAndReservedCommandsChangeNothing :
    (0x0003#16).extractLsb' 0 2 = 0b11#2 ∧ (0x0004#16).extractLsb' 2 14 ≠ 0#14 ∧ (0xFFFF#16).extractLsb' 2 14 ≠ 0#14 ∧
    htWord 1#1 0#3 0#4 0x0003#16 = 0x800003#24 ∧
    ({ State.reset with agenda := [.host 0x800003#24] } : State).agenda = [.host 0x800003#24] := by decide

theorem witness_IdleAndReservedPortWordsChangeNothing :
    (∀ w ∈ [0b000#3, 0b001#3], w.getLsbD 2 = false ∧ w.getLsbD 1 = false) ∧
    (∀ w ∈ [0b110#3, 0b111#3], w.getLsbD 2 = true ∧ w.getLsbD 1 = true) ∧
    ({ State.reset with agenda := [.packer 0b111#3] } : State).agenda = [.packer 0b111#3] := by decide

theorem witness_InputWriteTakesEffectOutsideRun :
    InputWrite (.wrImgW 0xFFFF#16) .imgW 0xFFFF#16 ∧ InputWrite (.wrImgH 0#16) .imgH 0#16 ∧
    InputWrite (.wrGw 2#16) .gw 2#16 ∧ InputWrite (.wrGh 2#16) .gh 2#16 ∧ InputWrite (.wrreg .gh 2#16) .gh 2#16 ∧
    (p1 .idle).status ≠ .run ∧ (p1 .done).status ≠ .run ∧ (p1 .err).status ≠ .run :=
  ⟨.imgW _, .imgH _, .gw _, .gh _, .general _ _ rfl, by decide, by decide, by decide⟩

theorem witness_OtherHostWritesHaveNoEffect :
    (Reg.status ≠ .cmd ∧ Reg.isInput .status = false) ∧ (Reg.cnt ≠ .cmd ∧ Reg.isInput .cnt = false) ∧
    InputWrite (.wrGw 5#16) .gw 5#16 ∧ (p1 .run).status = .run := ⟨by decide, by decide, .gw _, rfl⟩

theorem witness_StartInRunIsDropped : (p1 .run).status = .run := rfl

/-- T60, T68, and the widest glyph block. -/
theorem witness_StartAcceptsASheetThatTiles :
    ∀ s ∈ [block .idle 8#16 8#16 1#16 1#16, block .done 0#16 8#16 1#16 1#16, block .err 65528#16 8#16 8191#16 1#16],
      s.status ≠ .run ∧ 1 ≤ val s .gw ∧ 1 ≤ val s .gh ∧ val s .imgW % (8 * val s .gw) = 0 ∧
        val s .imgH % (8 * val s .gh) = 0 := by decide

/-- T64, T65, T66. -/
theorem witness_StartRejectsZeroCells :
    ∀ s ∈ [block .idle 16#16 8#16 0#16 1#16, block .done 16#16 8#16 1#16 0#16, State.reset],
      s.status ≠ .run ∧ (val s .gw = 0 ∨ val s .gh = 0) := by decide

/-- T61, T62, T63, T67. -/
theorem witness_StartRejectsASheetThatDoesNotTile :
    ∀ s ∈ [block .idle 12#16 8#16 1#16 1#16, block .idle 16#16 8#16 1#16 2#16, block .err 12#16 12#16 1#16 1#16,
        block .done 8#16 8#16 2#16 1#16],
      s.status ≠ .run ∧ 1 ≤ val s .gw ∧ 1 ≤ val s .gh ∧
        (val s .imgW % (8 * val s .gw) ≠ 0 ∨ val s .imgH % (8 * val s .gh) ≠ 0) := by decide

theorem witness_StartForgetsEarlierCalls :
    (block .idle 8#16 8#16 1#16 1#16).status ≠ .run ∧
    ({ block .done 8#16 8#16 1#16 1#16 with out := [1#8], packer := ⟨3#8, 2#3⟩ } : State).status ≠ .run ∧
    (block .idle 8#16 8#16 1#16 1#16).geom =
      ({ block .done 8#16 8#16 1#16 1#16 with out := [1#8], packer := ⟨3#8, 2#3⟩ } : State).geom := by decide

theorem witness_ClearAcknowledges :
    (p1 .done).status = .done ∧ (p1 .err).status = .err ∧ (p1 .run).status = .run ∧ (p1 .idle).status = .idle := by
  decide

theorem witness_PushPlacesTheBit :
    ((Instr.push0 = .push0 ∧ false = false) ∨ (Instr.push0 = .push1 ∧ false = true)) ∧
    ((Instr.push1 = .push0 ∧ true = false) ∨ (Instr.push1 = .push1 ∧ true = true)) ∧
    val (packing 0#8 0#3) .cnt < 7 ∧ val (packing 0x3E#8 6#3) .cnt < 7 ∧ val (packing 0x7E#8 7#3) .cnt = 7 := by decide

theorem witness_PushUnderEitherOrder : (⟨0#8, 6#3⟩ : Packer).cnt ≠ 7#3 ∧ (⟨0#8, 7#3⟩ : Packer).cnt = 7#3 := by decide

theorem witness_FlushPadsAndEmits :
    val (packing 0#8 0#3) .cnt = 0 ∧ val (packing 1#8 1#3) .cnt ≠ 0 ∧ val (packing 0x7E#8 7#3) .cnt ≠ 0 := by decide

theorem witness_PackPlacesEveryBit : 0 < ([true].length + 7) / 8 ∧ 0 < 8 ∧ 7 < 8 := by decide

/-- P9: 1, an idle word, 0, 1. -/
theorem witness_SerialPackingIsPack :
    State.reset.packer = ⟨0#8, 0#3⟩ ∧ [Instr.push1, .bpidle 0#1, .push0, .push1].all isPushOrIdle = true ∧
    ([] : List Instr).all isPushOrIdle = true := by decide

theorem witness_BinIntegerForm : (⟨255#8, 255#8, 255#8, 127#8⟩ : Sample).a.toNat < 128 := by decide

/-- T45 (not last) and T49a (last). -/
theorem witness_NextIsTheSuccessor :
    ∀ q ∈ [((⟨0#16, 0#16, 0#16, 0#16, 0#3, 6#3⟩ : Position), false), (⟨0#16, 16#16, 1#16, 1#16, 7#3, 7#3⟩, true)],
      (⟨32#16, 16#16, 2#16, 2#16⟩ : Geometry).sheet.tiles = true ∧
      q.1.loop.inSheet (⟨32#16, 16#16, 2#16, 2#16⟩ : Geometry).sheet = true ∧
      (q.1.advance ⟨32#16, 16#16, 2#16, 2#16⟩).2 = q.2 := by decide

/-- T26 and T38: the first and the last. -/
theorem witness_BitIndexAndPositionAreInverse :
    (⟨32, 16, 2, 2⟩ : Sheet).tiles = true ∧ (⟨0, 0, 0, 0, 0, 0⟩ : Loop).inSheet ⟨32, 16, 2, 2⟩ = true ∧
    (⟨0, 16, 1, 1, 7, 7⟩ : Loop).inSheet ⟨32, 16, 2, 2⟩ = true ∧ 0 < 32 * 16 ∧ 511 < 32 * 16 := by decide

/-- T39 and T44. -/
theorem witness_EveryPixelIsVisitedOnce :
    (⟨48, 32, 3, 2⟩ : Sheet).tiles = true ∧ (⟨0, 0, 0, 0, 0, 0⟩ : Loop).inSheet ⟨48, 32, 3, 2⟩ = true ∧
    (⟨16, 24, 1, 2, 7, 7⟩ : Loop).inSheet ⟨48, 32, 3, 2⟩ = true ∧ 47 < 48 ∧ 31 < 32 := by decide

theorem witness_LoopNestIsTheClosedForm : (⟨48, 32, 3, 2⟩ : Sheet).tiles = true := by decide

theorem witness_PixelsByteAndGlyph :
    (⟨48, 32, 3, 2⟩ : Sheet).tiles = true ∧ (⟨16, 24, 1, 2, 7, 7⟩ : Loop).inSheet ⟨48, 32, 3, 2⟩ = true := by decide

/-- T23, T24 and T20 of the marker sheet. -/
theorem witness_GeometriesWithTheSameStream :
    (⟨32, 16, 2, 1⟩ : Sheet).tiles = true ∧ (⟨32, 16, 2, 1⟩ : Sheet).gh = 1 ∧
    (⟨32, 16, 4, 2⟩ : Sheet).tiles = true ∧ (⟨32, 16, 4, 2⟩ : Sheet).nbx = 1 ∧
    (⟨32, 16, 2, 2⟩ : Sheet).tiles = true ∧ 2 ≤ (⟨32, 16, 2, 2⟩ : Sheet).gh ∧ 2 ≤ (⟨32, 16, 2, 2⟩ : Sheet).nbx := by decide

/-- A pixel that is not the last, and the last. -/
theorem witness_StepIsPushNextFlush :
    pixRead (stepping Position.zero Packer.empty black).pixels (0 + 0 * 8 + 0) (0 + 0 * 8 + 0) = some black ∧
    (Position.zero.advance ⟨8#16, 8#16, 1#16, 1#16⟩).2 = false ∧
    pixRead (stepping ⟨0#16, 0#16, 0#16, 0#16, 7#3, 7#3⟩ ⟨0x7F#8, 7#3⟩ white).pixels (0 + 0 * 8 + 7) (0 + 0 * 8 + 7) =
      some white ∧
    ((⟨0#16, 0#16, 0#16, 0#16, 7#3, 7#3⟩ : Position).advance ⟨8#16, 8#16, 1#16, 1#16⟩).2 = true := by decide

theorem witness_StepFrame :
    pixRead (stepping Position.zero Packer.empty black).pixels Position.zero.px Position.zero.py = some black := by decide

/-- After reset the pixel space holds nothing. -/
theorem witness_StepIsStuckWhereThePixelIsAbsent : pixRead State.reset.pixels 0 0 = none := by decide

theorem witness_RunReadsInsideTheSheet : (p1 .run).Inv ∧ (p1 .run).status = .run := ⟨p1_inv, rfl⟩

theorem witness_NoExceptionInRun : (p1 .run).Inv ∧ (p1 .run).status = .run ∧ (p1 .run).imagePresent :=
  ⟨p1_inv, rfl, p1_imagePresent _⟩

/-- PIX_X = 0, and PIX_X = 7. -/
theorem witness_StepEmitsAtTheEndOfAPixelRow :
    ((p1 .run).Inv ∧ (p1 .run).status = .run ∧ (∃ t, exec .step (p1 .run) = .next t) ∧ val (p1 .run) .pixX ≠ 7) ∧
    (p1Seven.Inv ∧ p1Seven.status = .run ∧ (∃ t, exec .step p1Seven = .next t) ∧ val p1Seven .pixX = 7) :=
  ⟨⟨p1_inv, rfl, ⟨_, p1_step⟩, by decide⟩, p1Seven_inv, rfl, ⟨_, p1Seven_step⟩, by decide⟩

theorem witness_EveryStepKeepsTheInvariant : (p1 .run).Inv ∧ ∃ t, step (p1 .run) = .next t :=
  ⟨p1_inv, _, p1_step⟩

/-- START from IDLE, STEP on the last pixel, CLEAR from ERR, reset. -/
theorem witness_OnlyTheseStateTransitions :
    ∀ s ∈ [{ block .idle 8#16 8#16 1#16 1#16 with agenda := [.host 0x800001#24] },
        stepping ⟨0#16, 0#16, 0#16, 0#16, 7#3, 7#3⟩ ⟨0x7F#8, 7#3⟩ white,
        { block .err 8#16 8#16 1#16 1#16 with agenda := [.host 0x800002#24] },
        { block .run 8#16 8#16 1#16 1#16 with agenda := [.reset] }],
      s.blockDriven = true ∧ (after (step s)).any (fun t => decide (t.status ≠ s.status)) = true := by decide

/-- A host write and a reset. -/
theorem witness_OnlyHostWritesChangeTheInputs :
    ∀ s ∈ [{ block .idle 8#16 8#16 1#16 1#16 with agenda := [.host 0x840002#24] },
        { block .run 8#16 8#16 1#16 1#16 with agenda := [.reset] }],
      (after (step s)).any (fun t => decide (t.geom ≠ s.geom)) = true := by decide

/-- A byte appended, and OUT emptied. -/
theorem witness_OutIsAppendOnly :
    (after (step (stepping ⟨0#16, 0#16, 0#16, 0#16, 0#3, 7#3⟩ ⟨0x7E#8, 7#3⟩ white))).map (·.out) = some [0xFE#8] ∧
    (after (step { block .done 8#16 8#16 1#16 1#16 with out := [1#8], agenda := [.host 0x800001#24] })).map (·.out) =
      some [] := by decide

theorem witness_NoStepWritesThePixelSpace : ∃ t, step (p1 .run) = .next t := ⟨_, p1_step⟩

theorem witness_HostCannotDisturbARunningCall :
    ({ p1 .run with agenda := [.host 0x840005#24] } : State).status = .run ∧
    ({ p1 .run with agenda := [.host 0x840005#24] } : State).agenda = [.host 0x840005#24] := ⟨rfl, rfl⟩

theorem witness_RunningCallFinishes :
    (p1 .run).Inv ∧ (p1 .run).status = .run ∧ (p1 .run).imagePresent ∧ (p1 .run).agenda = [] ∧
    63 < pixelCount (p1 .run) - (p1 .run).pos.loop.bitIndex (p1 .run).geom.sheet :=
  ⟨p1_inv, rfl, p1_imagePresent _, rfl, by decide⟩

/-- P1 interleaved with a read: before the last turn, and from it on; P7, the empty sheet; a sheet that is rejected. -/
theorem witness_EveryInterleavingComputesEncode :
    (p1 .idle).status ≠ .run ∧ HoldsImage (p1 .idle).pixels imageP1 (val (p1 .idle) .imgW) (val (p1 .idle) .imgH) ∧
    (∃ bs, encodeCall imageP1 (p1 .idle).geom.sheet = .bytes bs) ∧
    [Event.host 0x010000#24, .sequencer].all hostOrSequencer = true ∧
    turns [Event.host 0x010000#24, .sequencer] < pixelCount (p1 .idle) ∧
    (List.replicate 64 Event.sequencer).all hostOrSequencer = true ∧
    turns (List.replicate 64 Event.sequencer) = pixelCount (p1 .idle) ∧
    (List.replicate 64 Event.sequencer).getLast? = some .sequencer ∧
    [Event.host 0x840005#24, .sequencer].all leavesDoneAlone = true ∧
    [Event.host 0x800002#24, .sequencer].all startsNothing = true ∧
    (HoldsImage [] imageP1 0 8 ∧ (∃ bs, encodeCall imageP1 (block .idle 0#16 8#16 1#16 1#16).geom.sheet = .bytes bs) ∧
      turns [] = pixelCount (block .idle 0#16 8#16 1#16 1#16)) ∧
    (HoldsImage [] imageP1 0 12 ∧
      encodeCall imageP1 (block .idle 0#16 12#16 1#16 1#16).geom.sheet = .reject .geomMismatch) :=
  ⟨by decide, holdsP1, ⟨_, rfl⟩, by decide, by decide, by decide, by decide, by decide, by decide,
    by decide, ⟨fun _ h => absurd h (by omega), ⟨_, rfl⟩, by decide⟩, fun _ h => absurd h (by omega), by decide⟩

theorem witness_EncodeOperationComputesTheAsset :
    (p1 .idle).status ≠ .run ∧ HoldsImage (p1 .idle).pixels imageP1 (8#16).toNat (8#16).toNat ∧
    ({ p1 .idle with agenda := [.operation (.encode 8#16 8#16 1#16 1#16)] } : State).agenda =
      [.operation (.encode 8#16 8#16 1#16 1#16)] ∧
    (∃ bs, encodeCall imageP1 ⟨(8#16).toNat, (8#16).toNat, (1#16).toNat, (1#16).toNat⟩ = .bytes bs) ∧
    HoldsImage [] imageP1 (0#16).toNat (8#16).toNat ∧
    encodeCall imageP1 ⟨(0#16).toNat, (8#16).toNat, (0#16).toNat, (1#16).toNat⟩ = .reject .cellsZero :=
  ⟨by decide, holdsP1, rfl, ⟨_, rfl⟩, fun _ h => absurd h (by simp), by decide⟩

end Sys2Proof.Tests
end

section
/-! PROOFS. What START leaves is a function of the four inputs (R3, R31). -/

namespace Sys2Proof.Proofs.Scope

open Sys2Proof Sys2Proof.Machine

/-- The check of a call that begins settles STATE and ERR alone, and by the four inputs alone (R123): whatever the
state, the inputs decide which branch of the check it takes. -/
theorem beginCall_checkGeometry_of_geom (g : Geometry) :
    ∃ (c : CallState) (code info : BitVec 2), ∀ s : State, s.geom = g →
      s.beginCall.checkGeometry = (s.beginCall.setErr code info).setStatus c := by
  by_cases hCells : g.gw = 0#16 ∨ g.gh = 0#16
  · refine ⟨.err, Exception.cellsZero.code, errInfoBits (decide (g.gh = 0#16)) (decide (g.gw = 0#16)), ?_⟩
    rintro s rfl
    exact if_pos hCells
  by_cases hTile : doesNotTile g.imgW g.gw ∨ doesNotTile g.imgH g.gh
  · refine ⟨.err, Exception.geomMismatch.code, errInfoBits (doesNotTile g.imgH g.gh) (doesNotTile g.imgW g.gw), ?_⟩
    rintro s rfl
    exact (if_neg hCells).trans (if_pos hTile)
  by_cases hEmpty : g.imgW = 0#16 ∨ g.imgH = 0#16
  · refine ⟨.done, 0#2, 0#2, ?_⟩
    rintro s rfl
    exact (if_neg hCells).trans ((if_neg hTile).trans (if_pos hEmpty))
  · refine ⟨.run, 0#2, 0#2, ?_⟩
    rintro s rfl
    exact (if_neg hCells).trans ((if_neg hTile).trans (if_neg hEmpty))

/-- START outside RUN (R31, R123): the working state cleared, then STATE and ERR as the inputs alone decide. -/
theorem exec_start_of_geom (g : Geometry) :
    ∃ (c : CallState) (code info : BitVec 2), ∀ s : State, s.status ≠ .run → s.geom = g →
      exec .start s = .next ((s.beginCall.setErr code info).setStatus c) := by
  obtain ⟨c, code, info, h⟩ := beginCall_checkGeometry_of_geom g
  exact ⟨c, code, info, fun s hs hg => by rw [exec_start, if_neg hs, h s hg]⟩

/-- Settles O18: outside RUN both STARTs clear the working state (R31) and then set STATE and ERR to the values that
the inputs the two states share decide, so no field a register shows is left from an earlier call. -/
theorem startForgetsEarlierCalls : Obligations.StartForgetsEarlierCalls := by
  intro s s' hs hs' hg
  obtain ⟨c, code, info, h⟩ := exec_start_of_geom s'.geom
  refine ⟨_, _, h s hs hg, h s' hs' rfl, fun r => ?_, rfl, rfl⟩
  apply State.reg_congr <;> simp [hg]

end Sys2Proof.Proofs.Scope
end

section
/-! PROOFS. What one step of the machine can do, said once: the effect of every completed operation, and the ways in
which the agenda of a block-driven state selects one. -/

namespace Sys2Proof.Machine

open Sys2Proof Sys2Proof.Claims

/-! ## The effect of an operation -/

/-- Everything an operation that completes can do: change the model's records alone (a read, a function's result, more
of the block's own events on the agenda), or one of the updates of 43_sequencer.md and 42_bitpack.md, under the
condition on STATE that lets it happen. -/
inductive Effect : Instr → State → State → Prop
  | records {i : Instr} {s : State} (rd : Option Word) (fr : Option FnResult) (added : List Event)
      (hadded : added.all Event.blockOnly = true) :
      Effect i s { s with rdata := rd, fnResult := fr, agenda := added ++ s.agenda }
  | inputWrite {i : Instr} {s : State} {n : Reg} {v : Word} (hi : InputWrite i n v) (hs : s.status ≠ .run) :
      Effect i s (s.setGeom (s.geom.set n v))
  | start {s : State} (hs : s.status ≠ .run) : Effect .start s s.beginCall.checkGeometry
  | clear {s : State} (hs : s.status = .done ∨ s.status = .err) : Effect .clear s s.acknowledge
  | step {s : State} (smp : Sample) : Effect .step s (s.processSample smp)
  | push {i : Instr} {s : State} {b : Bool} (hi : pushedBit i = some b) : Effect i s (s.push b)
  | flush {s : State} (bit : BitVec 1) : Effect (.flush bit) s s.flush
  | next {s : State} (r : FnResult) : Effect .next s ((s.setPos (s.pos.advance s.geom).1).setFnResult r)

/-- An operation without effect changes no record either. -/
theorem Effect.unchanged (i : Instr) (s : State) : Effect i s s := .records s.rdata s.fnResult [] rfl

/-- A host write changes nothing, or is one of the input writes outside RUN (R24, R121). -/
theorem Effect.hostWrite {i : Instr} {n : Reg} {v : Word} (s : State) (hi : n.isInput = true → InputWrite i n v) :
    Effect i s (s.hostWrite n v) := by
  rcases s.hostWrite_cases n v with h | ⟨hs, hn, h⟩
  · rw [h]
    exact .unchanged i s
  · rw [h]
    exact .inputWrite (hi hn) hs

/-- An operation that completes has one of these effects. -/
theorem exec_effect {i : Instr} {s t : State} (h : exec i s = .next t) : Effect i s t := by
  cases i with
  | nop | cmdReserved | htReserved | hold | bpidle | bpwReserved => cases h; exact .unchanged _ s
  | wrImgW v => cases h; exact .hostWrite s fun _ => .imgW v
  | wrImgH v => cases h; exact .hostWrite s fun _ => .imgH v
  | wrGw v => cases h; exact .hostWrite s fun _ => .gw v
  | wrGh v => cases h; exact .hostWrite s fun _ => .gh v
  | wrreg n v => cases h; exact .hostWrite s (.general n v)
  | rdreg | bin | coord => cases h; exact .records _ _ [] rfl
  | encode w v gw gh => cases h; exact .records s.rdata s.fnResult (encodeExpansion w v gw gh) rfl
  | wait =>
    rw [exec_wait] at h
    cases h
    split
    · exact .records _ s.fnResult [.sequencer, .operation .wait] rfl
    · exact .records _ s.fnResult [] rfl
  | start =>
    rw [exec_start] at h
    cases h
    split
    · exact .unchanged _ s
    · exact .start ‹_›
  | clear =>
    rw [exec_clear] at h
    cases h
    split
    · exact .clear ‹_›
    · exact .unchanged _ s
  | step =>
    obtain ⟨smp, -, rfl⟩ := exec_step_cases h
    exact .step smp
  | push0 | push1 => cases h; exact .push rfl
  | flush bit => cases h; exact .flush bit
  | next => cases h; exact .next _

/-! ## What a step runs -/

/-- Fetching takes the agenda's head off and changes nothing else. -/
theorem fetch_snd (s : State) : (fetch s).2 = s.setAgenda s.agenda.tail := by
  cases h : s.agenda with
  | nil => rw [fetch_nil h, List.tail_nil, ← h]; rfl
  | cons e rest => rw [fetch_cons h, List.tail_cons]

/-- Everything a step that completes can be: a reset, or an operation with its effect, on the state with the agenda's
head taken off. -/
theorem step_effect {s t : State} (h : step s = .next t) :
    ((fetch s).1 = .reset ∧ t = (s.setAgenda s.agenda.tail).blockReset) ∨
    ∃ i, (fetch s).1 = .run i ∧ Effect i (s.setAgenda s.agenda.tail) t := by
  rcases hf : fetch s with ⟨_ | _, s'⟩
  all_goals obtain rfl : s' = s.setAgenda s.agenda.tail := by rw [← fetch_snd s, hf]
  case run i => exact .inr ⟨i, rfl, exec_effect (step_of_fetch_run hf ▸ h)⟩
  case reset =>
    rw [step_of_fetch_reset hf] at h
    exact .inl ⟨rfl, by cases h; rfl⟩

/-- The operations that drive BP8 or the position: STEP, and those that only the block's GBI issues within a STEP
(R67). -/
def drivesDatapath : Instr → Bool
  | .step | .push0 | .push1 | .flush _ | .next => true
  | _ => false

/-- No host word drives BP8 or the position. -/
theorem drivesDatapath_decodeHt (w : BitVec 24) : drivesDatapath (decodeHt w) = false := by
  unfold decodeHt
  split
  · rfl
  split
  · rfl
  cases Reg.ofNumber (htReg w)
  case cmd =>
    show drivesDatapath (decodeCommand (htData w)) = false
    unfold decodeCommand
    split_ifs <;> rfl
  all_goals rfl

/-- Neither WAIT nor ENCODE, the block's own events that no word selects, drives BP8 or the position. -/
theorem drivesDatapath_operation {i : Instr} (h : (Event.operation i).blockOnly = true) : drivesDatapath i = false := by
  cases i with
  | wait | encode => rfl
  | _ => cases h

/-- The sequencer drives BP8 and the position by STEP in RUN, and in no other STATE (R65). -/
theorem sequencerInstr_drives {s : State} (h : drivesDatapath s.sequencerInstr = true) :
    s.sequencerInstr = .step ∧ s.status = .run := by
  by_cases hs : s.status.bits = 0b01#2
  · exact ⟨if_pos hs, (CallState.bits_eq_run _).1 hs⟩
  · rw [State.sequencerInstr, decodeSeq, if_neg hs] at h
    cases h

/-- Of a block-driven agenda's head, only the sequencer's STEP in RUN drives BP8 and the position (R65, R67). -/
theorem Event.next_drives {e : Event} {s : State} {i : Instr} (he : e.blockOnly = true) (hn : e.next s = .run i)
    (hi : drivesDatapath i = true) : i = .step ∧ s.status = .run := by
  cases e with
  | host w => cases hn; rw [drivesDatapath_decodeHt] at hi; cases hi
  | sequencer => cases hn; exact sequencerInstr_drives hi
  | packer w => cases he
  | operation j => cases hn; rw [drivesDatapath_operation he] at hi; cases hi
  | reset => cases hn

/-- In a block-driven state, only STEP in RUN drives BP8 and the position. -/
theorem fetch_drives {s : State} {i : Instr} (hb : s.blockDriven = true) (hf : (fetch s).1 = .run i)
    (hi : drivesDatapath i = true) : i = .step ∧ s.status = .run := by
  cases ha : s.agenda with
  | nil => rw [fetch_nil ha] at hf; cases hf; exact sequencerInstr_drives hi
  | cons e rest =>
    rw [fetch_cons ha] at hf
    rw [State.blockDriven, ha, List.all_cons, Bool.and_eq_true] at hb
    exact Event.next_drives hb.1 hf hi

/-- A block-driven agenda stays so without its head. -/
theorem blockDriven_tail {s : State} (hb : s.blockDriven = true) : s.agenda.tail.all Event.blockOnly = true := by
  rw [State.blockDriven, List.all_eq_true] at hb
  exact List.all_eq_true.2 fun e he => hb e (List.mem_of_mem_tail he)

/-! ## START's check and a sample, field by field -/

/-- What the check of a call that begins leaves as it found it (R123, R144). -/
theorem State.beginCall_checkGeometry_fields (s : State) :
    s.beginCall.checkGeometry.geom = s.geom ∧ s.beginCall.checkGeometry.pos = Position.zero ∧
    s.beginCall.checkGeometry.packer = Packer.empty ∧ s.beginCall.checkGeometry.pixels = s.pixels ∧
    s.beginCall.checkGeometry.out = [] ∧ s.beginCall.checkGeometry.agenda = s.agenda := by
  obtain ⟨c, code, info, h⟩ := Proofs.Scope.beginCall_checkGeometry_of_geom s.geom
  rw [h s rfl]
  simp

/-- START outside RUN never leaves IDLE (R12, R123). -/
theorem State.checkGeometry_status_ne_idle (s : State) : s.checkGeometry.status ≠ .idle := by
  rcases s.checkGeometry_cases with ⟨-, e⟩ | ⟨-, -, -, e⟩ | ⟨-, -, -, -, ⟨-, e⟩ | ⟨-, -, e⟩⟩ <;> simp [e]

/-- A sample adds at most one byte to OUT: after a PUSH that fills the group, FLUSH finds it empty. -/
theorem State.processSample_out (s : State) (smp : Sample) :
    (s.processSample smp).out = s.out ∨ ∃ v, (s.processSample smp).out = s.out ++ [v] := by
  simp only [State.processSample]
  split
  · rcases s.push_cases (binarize smp) with ⟨-, e⟩ | ⟨-, e⟩
    · exact .inr ⟨_, by rw [e]; rfl⟩
    · simpa [e] using ((s.push (binarize smp)).setPos (s.pos.advance s.geom).1).flush_out
  · exact s.push_out _

/-- No operation has an effect on the pixel space (R25). -/
theorem Effect.pixels {i : Instr} {s t : State} (h : Effect i s t) : t.pixels = s.pixels := by
  cases h with
  | start =>
    obtain ⟨-, -, -, hpix, -⟩ := s.beginCall_checkGeometry_fields
    exact hpix
  | step smp =>
    obtain ⟨-, -, -, -, hpix, -⟩ := s.processSample_fields smp
    exact hpix
  | push => exact s.push_pixels _
  | flush => exact s.flush_pixels
  | records | inputWrite | clear | next => rfl

end Sys2Proof.Machine
end

section
/-! PROOFS. NEXT is the successor of the bit index on a sheet that tiles (R92, R95), and the invariant of R28 under each
effect of a step. -/

namespace Sys2Proof.Machine

open Sys2Proof Sys2Proof.Claims

/-! ## NEXT over the naturals -/

/-- A sum below a register's value is not wrapped by 16 bits (R8). -/
theorem toNat_ofNat_of_lt {n : Nat} {v : Word} (h : n < v.toNat) : (BitVec.ofNat 16 n).toNat = n :=
  (BitVec.toNat_ofNat n 16).trans (Nat.mod_eq_of_lt (h.trans v.isLt))

/-- NEXT on the registers is R92's carry chain over the naturals. -/
theorem Position.advance_loop (g : Geometry) (p : Position) :
    (p.advance g).1.loop = (p.loop.next g.sheet).1 ∧ (p.advance g).2 = (p.loop.next g.sheet).2 := by
  rcases p.advance_cases g with ⟨h1, e⟩ | ⟨h1, h2, e⟩ | ⟨h1, h2, h3, e⟩ | ⟨h1, h2, h3, h4, e⟩ |
    ⟨h1, h2, h3, h4, h5, e⟩ | ⟨h1, h2, h3, h4, h5, h6, e⟩ | ⟨h1, h2, h3, h4, h5, h6, e⟩
  · have hx : (p.pixX + 1#3).toNat = p.pixX.toNat + 1 := by bv_omega
    simp [e, Loop.next, Position.loop, h1, hx]
  · have hy : (p.pixY + 1#3).toNat = p.pixY.toNat + 1 := by bv_omega
    simp [e, Loop.next, Position.loop, h1, h2, hy]
  · simp [e, Loop.next, Position.loop, Geometry.sheet, h1, h2, h3, toNat_ofNat_of_lt h3]
  · simp [e, Loop.next, Position.loop, Geometry.sheet, h1, h2, h3.not_gt, h4, toNat_ofNat_of_lt h4]
  · simp [e, Loop.next, Position.loop, Geometry.sheet, h1, h2, h3.not_gt, h4.not_gt, h5, toNat_ofNat_of_lt h5]
  · simp [e, Loop.next, Position.loop, Geometry.sheet, h1, h2, h3.not_gt, h4.not_gt, h5.not_gt, h6,
      toNat_ofNat_of_lt h6]
  · simp [e, Loop.next, Position.loop, Position.zero, Geometry.sheet, h1, h2, h3.not_gt, h4.not_gt, h5.not_gt,
      h6.not_gt]

/-- The fastest counter counts modulo 8. -/
theorem Position.advance_pixX (g : Geometry) (p : Position) : (p.advance g).1.pixX = p.pixX + 1#3 := by
  rcases p.advance_cases g with ⟨-, e⟩ | ⟨h, -, e⟩ | ⟨h, -, -, e⟩ | ⟨h, -, -, -, e⟩ | ⟨h, -, -, -, -, e⟩ |
    ⟨h, -, -, -, -, -, e⟩ | ⟨h, -, -, -, -, -, e⟩
  · rw [e]
  all_goals
    have h7 : p.pixX = 7#3 := BitVec.eq_of_toNat_eq h
    rw [e, h7]
    rfl

/-- After the last pixel the position is all zeros (R92). -/
theorem Position.advance_last {g : Geometry} {p : Position} (h : (p.advance g).2 = true) :
    (p.advance g).1 = Position.zero := by
  rcases p.advance_cases g with ⟨-, e⟩ | ⟨-, -, e⟩ | ⟨-, -, -, e⟩ | ⟨-, -, -, -, e⟩ | ⟨-, -, -, -, -, e⟩ |
    ⟨-, -, -, -, -, -, e⟩ | ⟨-, -, -, -, -, -, e⟩
  case inr.inr.inr.inr.inr.inr => rw [e]
  all_goals (rw [e] at h; cases h)

/-! ## The successor of a bit index -/

/-- A sheet that tiles, clause by clause. -/
theorem Sheet.tiles_iff (t : Sheet) :
    t.tiles = true ↔ 0 < t.gw ∧ 0 < t.gh ∧ 0 < t.w ∧ 0 < t.h ∧ t.bw ∣ t.w ∧ t.bh ∣ t.h := by
  simp [Sheet.tiles, Nat.dvd_iff_mod_eq_zero, and_assoc]

/-- A position of the traversal, clause by clause. -/
theorem Loop.inSheet_iff (t : Sheet) (l : Loop) :
    l.inSheet t = true ↔ t.bh ∣ l.charY ∧ l.charY < t.h ∧ t.bw ∣ l.charX ∧ l.charX < t.w ∧ l.subY < t.gh ∧
      l.subX < t.gw ∧ l.pixY < 8 ∧ l.pixX < 8 := by
  simp [Loop.inSheet, Nat.dvd_iff_mod_eq_zero, and_assoc]

/-- A digit at its last value carries into the next one. -/
theorem digit_carry {d r : Nat} (a : Nat) (h : d + 1 = r) : (a + 1) * r = a * r + d + 1 := by
  rw [Nat.succ_mul]
  omega

/-- The last of the positions that are multiples of a block's size ends the side. -/
theorem add_eq_of_last_block {b c w : Nat} (hc : b ∣ c) (hw : b ∣ w) (hlt : c < w) (hle : w ≤ c + b) : c + b = w := by
  obtain ⟨i, rfl⟩ := hc
  obtain ⟨n, rfl⟩ := hw
  have hin : i < n := Nat.lt_of_mul_lt_mul_left hlt
  exact Nat.le_antisymm (Nat.mul_le_mul_left b hin) hle

/-- The last cell of a glyph block carries into the next glyph. -/
theorem glyph_carry {subY subX gh gw : Nat} (g : Nat) (hy : subY + 1 = gh) (hx : subX + 1 = gw) :
    (g + 1) * gh * gw = (g * gh + subY) * gw + subX + 1 := by
  rw [digit_carry g hy, digit_carry _ hx]

/-- On a sheet that tiles, NEXT takes a position of the traversal, unless it is the last, to a position of the traversal
with the next bit index (R92, R95): one digit moves, and every faster digit was at its last value. -/
theorem Loop.next_successor {t : Sheet} {l : Loop} (ht : t.tiles = true) (hl : l.inSheet t = true)
    (hn : (l.next t).2 = false) :
    (l.next t).1.inSheet t = true ∧ (l.next t).1.bitIndex t = l.bitIndex t + 1 := by
  obtain ⟨hgw, hgh, hw, hh, hbw, hbh⟩ := t.tiles_iff.1 ht
  obtain ⟨hcy, hcyLt, hcx, hcxLt, hsy, hsx, hpy, hpx⟩ := (l.inSheet_iff t).1 hl
  have hX : (l.charX + t.bw) / t.bw = l.charX / t.bw + 1 := Nat.add_div_right _ (Nat.mul_pos (by decide) hgw)
  have hY : (l.charY + t.bh) / t.bh = l.charY / t.bh + 1 := Nat.add_div_right _ (Nat.mul_pos (by decide) hgh)
  have h8 : 0 < 8 := by decide
  rw [Loop.inSheet_iff]
  simp only [Loop.bitIndex, Loop.cellIndex, Loop.glyphIndex]
  unfold Loop.next at hn ⊢
  rw [← Sheet.bw, ← Sheet.bh] at hn ⊢
  split_ifs at hn ⊢ with h1 h2 h3 h4 h5 h6 <;> dsimp only
  · exact ⟨⟨hcy, hcyLt, hcx, hcxLt, hsy, hsx, hpy, by omega⟩, by omega⟩
  · exact ⟨⟨hcy, hcyLt, hcx, hcxLt, hsy, hsx, by omega, h8⟩, by omega⟩
  · exact ⟨⟨hcy, hcyLt, hcx, hcxLt, hsy, h3, h8, h8⟩, by omega⟩
  · have hsxLast : l.subX + 1 = t.gw := by omega
    have hc := digit_carry ((l.charY / t.bh * t.nbx + l.charX / t.bw) * t.gh + l.subY) hsxLast
    refine ⟨⟨hcy, hcyLt, hcx, hcxLt, h4, hgw, h8, h8⟩, ?_⟩
    rw [← Nat.add_assoc, hc]
    omega
  · have hsxLast : l.subX + 1 = t.gw := by omega
    have hsyLast : l.subY + 1 = t.gh := by omega
    have hc := glyph_carry (l.charY / t.bh * t.nbx + l.charX / t.bw) hsyLast hsxLast
    refine ⟨⟨hcy, hcyLt, (Nat.dvd_add_self_right).2 hcx, h5, hgh, hgw, h8, h8⟩, ?_⟩
    simp only [hX, ← Nat.add_assoc, Nat.add_zero]
    rw [hc]
    omega
  · have hsxLast : l.subX + 1 = t.gw := by omega
    have hsyLast : l.subY + 1 = t.gh := by omega
    have hcxLast : l.charX / t.bw + 1 = t.nbx := by
      rw [← hX, add_eq_of_last_block hcx hbw hcxLt (Nat.not_lt.1 h5), Sheet.nbx]
    have hc := glyph_carry (l.charY / t.bh * t.nbx + l.charX / t.bw) hsyLast hsxLast
    refine ⟨⟨(Nat.dvd_add_self_right).2 hcy, h6, Nat.dvd_zero _, hw, hgh, hgw, h8, h8⟩, ?_⟩
    simp only [hY, digit_carry _ hcxLast, Nat.zero_div, Nat.add_zero]
    rw [hc]
    omega

/-! ## The clauses of R28 -/

/-- R28 in RUN is a position of the traversal of a sheet that tiles, CNT and ACC in step with it, no error, and one byte
in OUT for each group of eight visited. -/
theorem State.runInv_iff (s : State) :
    s.RunInv ↔ s.geom.sheet.tiles = true ∧ s.pos.loop.inSheet s.geom.sheet = true ∧ s.packer.cnt = s.pos.pixX ∧
      s.packer.unfilledZero Config.hardware.packOrder ∧ s.errWord = 0#4 ∧
      s.out.length = s.pos.loop.bitIndex s.geom.sheet / 8 := by
  simp only [Sheet.tiles_iff, Loop.inSheet_iff]
  constructor
  · intro h
    exact ⟨⟨h.gwPos, h.ghPos, Nat.zero_lt_of_lt h.charXInside, Nat.zero_lt_of_lt h.charYInside,
        Nat.dvd_of_mod_eq_zero h.widthTiles, Nat.dvd_of_mod_eq_zero h.heightTiles⟩,
      ⟨Nat.dvd_of_mod_eq_zero h.charYAligned, h.charYInside, Nat.dvd_of_mod_eq_zero h.charXAligned, h.charXInside,
        h.subYInside, h.subXInside, s.pos.pixY.isLt, s.pos.pixX.isLt⟩,
      h.cntIsPixX, h.accUnfilled, h.noError, h.outLength⟩
  · rintro ⟨⟨hgw, hgh, hw, hh, hbw, hbh⟩, ⟨hcy, hcyLt, hcx, hcxLt, hsy, hsx, -, -⟩, hcnt, hacc, herr, hout⟩
    exact
      { gwPos := hgw, ghPos := hgh, wideEnough := Nat.le_of_dvd hw hbw, tallEnough := Nat.le_of_dvd hh hbh
        widthTiles := Nat.mod_eq_zero_of_dvd hbw, heightTiles := Nat.mod_eq_zero_of_dvd hbh
        charXAligned := Nat.mod_eq_zero_of_dvd hcx, charXInside := hcxLt
        charYAligned := Nat.mod_eq_zero_of_dvd hcy, charYInside := hcyLt
        subXInside := hsx, subYInside := hsy, cntIsPixX := hcnt, accUnfilled := hacc, noError := herr
        outLength := hout }

/-- An empty group has no bit. -/
theorem Packer.unfilledZero_empty (o : PackOrder) : Packer.empty.unfilledZero o := by
  intro i _ _
  simp [Packer.empty]

/-- A PUSH that does not fill the group leaves the places after the bit 0 (R105, R106). -/
theorem Packer.unfilledZero_setBit {p : Packer} (b : Bool) (hp : p.unfilledZero Config.hardware.packOrder)
    (h7 : p.cnt.toNat < 7) :
    (⟨setBit p.acc p.cnt.toNat b, p.cnt + 1#3⟩ : Packer).unfilledZero Config.hardware.packOrder := by
  intro i hi hi8
  have hcnt : (p.cnt + 1#3).toNat = p.cnt.toNat + 1 := by bv_omega
  rw [hcnt] at hi
  rw [bitPosition_hardware, getLsbD_setBit _ _ (by omega) hi8, if_neg (by omega)]
  exact hp i (by omega) hi8

/-- PIX_X is the bit index within its group of eight (R97). -/
theorem Loop.bitIndex_mod (t : Sheet) {l : Loop} (h : l.pixX < 8) : l.bitIndex t % 8 = l.pixX := by
  rw [Loop.bitIndex]
  omega

/-- A sample that is not the last keeps R28's clauses. -/
theorem State.RunInv.processSample {s : State} (h : s.RunInv) (smp : Sample)
    (hl : (s.pos.advance s.geom).2 = false) : (s.processSample smp).RunInv := by
  obtain ⟨ht, hp, hcnt, hacc, herr, hout⟩ := s.runInv_iff.1 h
  obtain ⟨hgeom, hcode, hinfo, hpos, -⟩ := s.processSample_fields smp
  obtain ⟨hrowEnd, hinRow⟩ := State.processSample_inRow hcnt smp
  obtain ⟨hloop, hlast⟩ := s.pos.advance_loop s.geom
  obtain ⟨hin, hidx⟩ := Loop.next_successor ht hp (hlast ▸ hl)
  rw [← hloop] at hin hidx
  have hmod : s.pos.loop.bitIndex s.geom.sheet % 8 = s.pos.pixX.toNat := Loop.bitIndex_mod _ s.pos.pixX.isLt
  rw [State.runInv_iff, hgeom, hpos, State.errWord, hcode, hinfo, Position.advance_pixX, hidx]
  refine ⟨ht, hin, ?_⟩
  rcases Nat.lt_or_ge s.pos.pixX.toNat 7 with h7 | h7
  · obtain ⟨hout', hpk, -⟩ := hinRow h7
    rw [hout', hpk, ← hcnt]
    exact ⟨rfl, Packer.unfilledZero_setBit _ hacc (hcnt ▸ h7), herr, by omega⟩
  · have h7' : s.pos.pixX = 7#3 := by bv_omega
    have h7Nat : s.pos.pixX.toNat = 7 := congrArg BitVec.toNat h7'
    obtain ⟨hout', hpk⟩ := hrowEnd h7Nat
    rw [hout', hpk, h7', List.length_append, List.length_singleton]
    exact ⟨rfl, Packer.unfilledZero_empty _, herr, by omega⟩

/-! ## The invariant under each effect -/

/-- In RUN the invariant is R28: its clause on ERR gives what R20 asks. -/
theorem State.Inv.of_run {t : State} (hs : t.status = .run) (hr : t.RunInv) (hw : t.pixels.wf = true)
    (hb : t.blockDriven = true) : t.Inv where
  inRun _ := hr
  atRest h := absurd hs h
  errExactly := iff_of_false (absurd hr.noError) (by simp [hs])
  errLegal := by simp [(t.errWord_eq_zero.1 hr.noError).1]
  pixelsWf := hw
  driven := hb

/-- In IDLE and DONE it is an empty working state and ERR = 0. -/
theorem State.Inv.of_idle_or_done {t : State} (hs : t.status = .idle ∨ t.status = .done) (hp : t.pos = Position.zero)
    (hk : t.packer = Packer.empty) (he : t.errCode = 0#2 ∧ t.errInfo = 0#2) (hw : t.pixels.wf = true)
    (hb : t.blockDriven = true) : t.Inv where
  inRun h := by rcases hs with hs | hs <;> cases hs.symm.trans h
  atRest _ := ⟨hp, hk⟩
  errExactly := iff_of_false (absurd (t.errWord_eq_zero.2 he)) (by rcases hs with hs | hs <;> simp [hs])
  errLegal := by simp [he.1]
  pixelsWf := hw
  driven := hb

/-- The records and the agenda matter only in that the agenda is the block's own. -/
theorem State.Inv.records {s : State} (h : s.Inv) (rd : Option Word) (fr : Option FnResult) {es : List Event}
    (hes : es.all Event.blockOnly = true) : State.Inv { s with rdata := rd, fnResult := fr, agenda := es } where
  inRun hs := { h.inRun hs with }
  atRest := h.atRest
  errExactly := h.errExactly
  errLegal := h.errLegal
  pixelsWf := h.pixelsWf
  driven := hes

/-- An exception raised on a cleared block (R144): its code is 1 or 2, so ERR is not 0. -/
theorem State.Inv.raise {s : State} (hp : s.pos = Position.zero) (hk : s.packer = Packer.empty)
    (hw : s.pixels.wf = true) (hb : s.blockDriven = true) (x : Exception) (info : BitVec 2) : (s.raise x info).Inv where
  inRun h := nomatch h
  atRest _ := ⟨hp, hk⟩
  errExactly := iff_of_true (fun h => by cases x <;> cases ((State.errWord_eq_zero _).1 h).1) rfl
  errLegal := by cases x <;> simp [Exception.code]
  pixelsWf := hw
  driven := hb

/-- The first position of the traversal (R93). -/
theorem Loop.inSheet_zero {t : Sheet} (ht : t.tiles = true) : Position.zero.loop.inSheet t = true := by
  obtain ⟨hgw, hgh, hw, hh, -, -⟩ := t.tiles_iff.1 ht
  exact (Loop.inSheet_iff _ _).2 ⟨Nat.dvd_zero _, hh, Nat.dvd_zero _, hw, hgh, hgw, by decide, by decide⟩

/-- It has bit index 0. -/
theorem Loop.bitIndex_zero (t : Sheet) : Position.zero.loop.bitIndex t = 0 := by
  simp [Loop.bitIndex, Loop.cellIndex, Loop.glyphIndex, Position.loop, Position.zero]

/-- A geometry that START accepts and that has pixels tiles (R123). -/
theorem Geometry.sheet_tiles {g : Geometry} (hgw : g.gw ≠ 0#16) (hgh : g.gh ≠ 0#16)
    (hw : doesNotTile g.imgW g.gw = false) (hh : doesNotTile g.imgH g.gh = false) (hw0 : g.imgW ≠ 0#16)
    (hh0 : g.imgH ≠ 0#16) : g.sheet.tiles = true := by
  have hpos : ∀ {v : Word}, v ≠ 0#16 → 0 < v.toNat := fun {v} hv => by bv_omega
  exact (Sheet.tiles_iff _).2 ⟨hpos hgw, hpos hgh, hpos hw0, hpos hh0,
    Nat.dvd_of_mod_eq_zero ((doesNotTile_eq_false _ _).1 hw), Nat.dvd_of_mod_eq_zero ((doesNotTile_eq_false _ _).1 hh)⟩

/-- START outside RUN: the check rejects, ends an empty sheet, or begins a call at the first position (R93, R123). -/
theorem State.Inv.start {s : State} (h : s.Inv) : s.beginCall.checkGeometry.Inv := by
  rcases s.beginCall.checkGeometry_cases with ⟨-, e⟩ | ⟨-, -, -, e⟩ |
    ⟨hgw, hgh, hw, hh, ⟨-, e⟩ | ⟨hw0, hh0, e⟩⟩ <;> rw [e]
  · exact .raise (s := s.beginCall) rfl rfl h.pixelsWf h.driven _ _
  · exact .raise (s := s.beginCall) rfl rfl h.pixelsWf h.driven _ _
  · exact .of_idle_or_done (.inr rfl) rfl rfl ⟨rfl, rfl⟩ h.pixelsWf h.driven
  · have ht := Geometry.sheet_tiles hgw hgh hw hh hw0 hh0
    have hrun : (s.beginCall.setStatus .run).RunInv := (State.runInv_iff _).2
      ⟨ht, Loop.inSheet_zero ht, rfl, Packer.unfilledZero_empty _, (State.errWord_eq_zero _).2 ⟨rfl, rfl⟩,
        by simp [Loop.bitIndex_zero]⟩
    exact .of_run rfl hrun h.pixelsWf h.driven

/-- A sample processed in RUN: the call goes on, or after the last pixel ends with the working state empty (R127). -/
theorem State.Inv.processSample {s : State} (h : s.Inv) (hs : s.status = .run) (smp : Sample) :
    (s.processSample smp).Inv := by
  have hrun := h.inRun hs
  obtain ⟨-, hcode, hinfo, hpos, hpix, -, -, hag⟩ := s.processSample_fields smp
  have hstatus := s.processSample_status smp
  obtain ⟨hcode0, hinfo0⟩ := s.errWord_eq_zero.1 hrun.noError
  have hwf : (s.processSample smp).pixels.wf = true := hpix ▸ h.pixelsWf
  have hdriven : (s.processSample smp).blockDriven = true := by
    rw [State.blockDriven, hag]
    exact h.driven
  cases hl : (s.pos.advance s.geom).2 with
  | false =>
    rw [hl, if_neg (by decide), hs] at hstatus
    exact .of_run hstatus (hrun.processSample smp hl) hwf hdriven
  | true =>
    rw [hl, if_pos rfl] at hstatus
    have hpacker : (s.processSample smp).packer = Packer.empty := by
      simp [State.processSample, hl]
    exact .of_idle_or_done (.inr hstatus) (hpos.trans (Position.advance_last hl)) hpacker
      ⟨hcode.trans hcode0, hinfo.trans hinfo0⟩ hwf hdriven

/-- CLEAR from DONE or ERR: the working state is empty there already (R124). -/
theorem State.Inv.acknowledge {s : State} (h : s.Inv) (hs : s.status ≠ .run) : s.acknowledge.Inv := by
  obtain ⟨hpos, hpacker⟩ := h.atRest hs
  exact .of_idle_or_done (.inl rfl) hpos hpacker ⟨rfl, rfl⟩ h.pixelsWf h.driven

/-- Reset from any state (R160). -/
theorem State.Inv.blockReset {s : State} (h : s.Inv) : s.blockReset.Inv :=
  .of_idle_or_done (.inl rfl) rfl rfl ⟨rfl, rfl⟩ h.pixelsWf h.driven

/-- An input written outside RUN (R13, R14): the invariant says nothing of the inputs there. -/
theorem State.Inv.setGeom {s : State} (h : s.Inv) (hs : s.status ≠ .run) (g : Geometry) : (s.setGeom g).Inv where
  inRun hr := absurd hr hs
  atRest := h.atRest
  errExactly := h.errExactly
  errLegal := h.errLegal
  pixelsWf := h.pixelsWf
  driven := h.driven

/-- Only PUSH0 and PUSH1 push a bit. -/
theorem of_pushedBit {i : Instr} {b : Bool} (h : pushedBit i = some b) : i = .push0 ∨ i = .push1 := by
  cases i with
  | push0 => exact .inl rfl
  | push1 => exact .inr rfl
  | _ => cases h

/-- Every effect of an operation that drives the datapath only as the block does keeps the invariant. -/
theorem Effect.inv {i : Instr} {s t : State} (he : Effect i s t) (h : s.Inv)
    (hi : drivesDatapath i = true → i = .step ∧ s.status = .run) : t.Inv := by
  cases he with
  | records rd fr added hadded =>
    refine h.records rd fr ?_
    rw [List.all_append, hadded]
    exact h.driven
  | inputWrite _ hs => exact h.setGeom hs _
  | start => exact h.start
  | clear hs => exact h.acknowledge (by rcases hs with hs | hs <;> simp [hs])
  | step smp => exact h.processSample (hi rfl).2 smp
  | push hb => rcases of_pushedBit hb with rfl | rfl <;> cases (hi rfl).1
  | flush => cases (hi rfl).1
  | next => cases (hi rfl).1

end Sys2Proof.Machine
end

section
/-! PROOFS. The whole machine and reset (10_state.md). -/

namespace Sys2Proof.Proofs.WholeMachine

open Sys2Proof Sys2Proof.Machine Sys2Proof.Claims

/-- Settles O43: taking the agenda's head off keeps the invariant, a reset establishes it, and every effect that a
block-driven agenda can select keeps it. -/
theorem everyStepKeepsTheInvariant : Obligations.EveryStepKeepsTheInvariant := by
  intro s t h hstep
  have h' : (s.setAgenda s.agenda.tail).Inv := h.records s.rdata s.fnResult (blockDriven_tail h.driven)
  rcases step_effect hstep with ⟨-, rfl⟩ | ⟨i, hf, he⟩
  · exact h'.blockReset
  · exact he.inv h' (fetch_drives (s := s) h.driven hf)

/-- Settles O44: an effect that changes STATE is START's, CLEAR's, a last STEP's or a reset's, and a block-driven agenda
selects STEP in RUN only. -/
theorem onlyTheseStateTransitions : Obligations.OnlyTheseStateTransitions := by
  intro s t hb h hne
  rcases step_effect h with ⟨hf, rfl⟩ | ⟨i, hf, he⟩
  · exact .inr (.inr (.inr ⟨hf, rfl⟩))
  cases he with
  | start hs => exact .inl ⟨hf, hs, State.checkGeometry_status_ne_idle _⟩
  | clear hs => exact .inr (.inr (.inl ⟨hf, hs, rfl⟩))
  | step smp =>
    refine .inr (.inl ⟨hf, (fetch_drives hb hf rfl).2, ?_⟩)
    rw [State.processSample_status] at hne ⊢
    split at hne
    · exact if_pos ‹_›
    · exact absurd rfl hne
  | records => exact absurd rfl hne
  | inputWrite => exact absurd rfl hne
  | next => exact absurd rfl hne
  | push => exact absurd (State.push_status _ _) hne
  | flush => exact absurd (State.flush_status _) hne

/-- Settles O45: the only effects on the inputs are the input writes and reset; START keeps them (R31). -/
theorem onlyHostWritesChangeTheInputs : Obligations.OnlyHostWritesChangeTheInputs := by
  intro s t h hne
  rcases step_effect h with ⟨hf, rfl⟩ | ⟨i, hf, he⟩
  · exact .inl hf
  cases he with
  | inputWrite hi hs => exact .inr ⟨hs, i, _, _, hf, hi⟩
  | start => exact absurd (State.beginCall_checkGeometry_fields _).1 hne
  | step smp => exact absurd (State.processSample_fields _ smp).1 hne
  | push => exact absurd (State.push_geom _ _) hne
  | flush => exact absurd (State.flush_geom _) hne
  | records | clear | next => exact absurd rfl hne

/-- Settles O46: START and reset empty OUT; PUSH, FLUSH and STEP add at most one byte; every other effect keeps it. -/
theorem outIsAppendOnly : Obligations.OutIsAppendOnly := by
  intro s t h
  rcases step_effect h with ⟨hf, rfl⟩ | ⟨i, hf, he⟩
  · exact .inr (.inr ⟨rfl, .inr hf⟩)
  cases he with
  | start hs =>
    obtain ⟨-, -, -, -, hout, -⟩ := State.beginCall_checkGeometry_fields (s.setAgenda s.agenda.tail)
    exact .inr (.inr ⟨hout, .inl ⟨hf, hs⟩⟩)
  | step smp => exact (State.processSample_out _ smp).imp_right .inl
  | push => exact (State.push_out _ _).imp_right .inl
  | flush => exact (State.flush_out _).imp_right .inl
  | records | inputWrite | clear | next => exact .inl rfl

/-- Settles O47: neither reset nor any operation has an effect on the pixel space. -/
theorem noStepWritesThePixelSpace : Obligations.NoStepWritesThePixelSpace := by
  intro s t h a
  rcases step_effect h with ⟨-, rfl⟩ | ⟨i, -, he⟩
  · rfl
  · exact congrArg (Memory.read · a) he.pixels

/-- Settles O1: each register of R10 after reset, and START there, whose check finds GW = GH = 0. -/
theorem resetLeavesEveryRegisterZero : Obligations.ResetLeavesEveryRegisterZero := by
  refine ⟨fun r => ?_, rfl, rfl, State.reset.beginCall.checkGeometry, rfl, by decide, by decide, by decide⟩
  cases r <;> rfl

/-- Settles O13: a host write has no effect on a register that is no input, nor in RUN; a read writes no register. -/
theorem otherHostWritesHaveNoEffect : Obligations.OtherHostWritesHaveNoEffect := by
  refine ⟨fun s n v _ hn => ?_, fun s i n v hi hs => ?_, fun s n data => ?_⟩
  · rw [exec_wrreg, s.hostWrite_not_input n v hn]
  · cases hi <;> simp [hs]
  · exact ⟨_, exec_rdreg n data s, fun r _ => s.setRdata_reg _ r, fun _ => rfl, fun _ => rfl⟩

/-- Settles O42: after reset STATE is IDLE, with ERR, the working state, the pixel space and the agenda empty. -/
theorem resetMeetsTheInvariant : Obligations.ResetMeetsTheInvariant :=
  State.Inv.of_idle_or_done (.inl rfl) rfl rfl ⟨rfl, rfl⟩ rfl rfl

/-- STATUS reads the bits of STATE, which no two STATEs share (R12). -/
theorem val_status_eq (s : State) (c : CallState) : val s .status = c.bits.toNat ↔ s.status = c := by
  simp only [val, State.reg]
  cases s.status <;> cases c <;> decide

/-- Settles O49: each output compares STATE with the value STATUS then reads, and STATE has one value. -/
theorem outputsDecodeTheState : Obligations.OutputsDecodeTheState := by
  intro s
  refine ⟨decide_eq_true_iff.trans (val_status_eq s .run).symm, decide_eq_true_iff.trans (val_status_eq s .done).symm,
    decide_eq_true_iff.trans (val_status_eq s .err).symm, ?_⟩
  cases h : s.status <;> simp [one, State.busy, State.done, State.err, h]

end Sys2Proof.Proofs.WholeMachine
end

section
/-! PROOFS. The port words of a well-formed operation, and the bounds of R100 on a position of the traversal: what a
step decodes (20_memory.md R52) and where it reads (R43). -/

namespace Sys2Proof.Machine

open Sys2Proof Sys2Proof.Claims

/-! ## What a step decodes -/

/-- Every operation's word comes back as that operation. -/
theorem roundTrip (i : Instr) : Laws.RoundTrip.Statement i := by
  cases i with
  | nop => exact Laws.RoundTrip.nop
  | start => exact Laws.RoundTrip.start
  | clear => exact Laws.RoundTrip.clear
  | cmdReserved data => exact Laws.RoundTrip.cmdReserved data
  | wrImgW v => exact Laws.RoundTrip.wrImgW v
  | wrImgH v => exact Laws.RoundTrip.wrImgH v
  | wrGw v => exact Laws.RoundTrip.wrGw v
  | wrGh v => exact Laws.RoundTrip.wrGh v
  | wrreg n v => exact Laws.RoundTrip.wrreg n v
  | rdreg n data => exact Laws.RoundTrip.rdreg n data
  | htReserved we zero reg data => exact Laws.RoundTrip.htReserved we zero reg data
  | step => exact Laws.RoundTrip.step
  | hold ss => exact Laws.RoundTrip.hold ss
  | bpidle bit => exact Laws.RoundTrip.bpidle bit
  | push0 => exact Laws.RoundTrip.push0
  | push1 => exact Laws.RoundTrip.push1
  | flush bit => exact Laws.RoundTrip.flush bit
  | bpwReserved bit => exact Laws.RoundTrip.bpwReserved bit
  | bin smp => exact Laws.RoundTrip.bin smp
  | coord => exact Laws.RoundTrip.coord
  | next => exact Laws.RoundTrip.next
  | wait => exact Laws.RoundTrip.wait
  | encode w h gw gh => exact Laws.RoundTrip.encode w h gw gh

/-- The word of a well-formed operation decodes to it at its port (R72). -/
theorem decodeWord_of_encode {i : Instr} {pw : PortWord} (he : encode i = some pw) (hw : i.wellFormed = true) :
    decodeWord pw = i :=
  roundTrip i hw pw he

/-- A host word at the head of the agenda. -/
theorem step_host {s : State} {w : BitVec 24} {rest : List Event} (h : s.agenda = .host w :: rest) :
    step s = exec (decodeHt w) (s.setAgenda rest) :=
  step_of_fetch_run (fetch_cons h)

/-- A word on BP8's port at the head of the agenda. -/
theorem step_packer {s : State} {w : BitVec 3} {rest : List Event} (h : s.agenda = .packer w :: rest) :
    step s = exec (decodeBpw w) (s.setAgenda rest) :=
  step_of_fetch_run (fetch_cons h)

/-- An operation that no word selects, at the head of the agenda. -/
theorem step_operation {s : State} {i : Instr} {rest : List Event} (h : s.agenda = .operation i :: rest) :
    step s = exec i (s.setAgenda rest) :=
  step_of_fetch_run (fetch_cons h)

/-- The sequencer's turn at the head of the agenda. -/
theorem step_sequencer {s : State} {rest : List Event} (h : s.agenda = .sequencer :: rest) :
    step s = exec (decodeSeq s.status.bits) (s.setAgenda rest) :=
  step_of_fetch_run (fetch_cons h)

/-- The sequencer's turn by an empty agenda. -/
theorem step_nil {s : State} (h : s.agenda = []) : step s = exec (decodeSeq s.status.bits) s :=
  step_of_fetch_run (fetch_nil h)

/-! ## COORD on register reads -/

/-- PIX_X reads as the number it holds (R10). -/
theorem val_pixX (s : State) : val s .pixX = s.pos.pixX.toNat := BitVec.toNat_setWidth_of_le (by decide)

/-- PIX_Y reads as the number it holds (R10). -/
theorem val_pixY (s : State) : val s .pixY = s.pos.pixY.toNat := BitVec.toNat_setWidth_of_le (by decide)

/-- px on register reads (R90). -/
theorem val_px (s : State) : val s .charX + val s .subX * 8 + val s .pixX = s.pos.px := by
  rw [val_pixX]
  rfl

/-- py on register reads (R90). -/
theorem val_py (s : State) : val s .charY + val s .subY * 8 + val s .pixY = s.pos.py := by
  rw [val_pixY]
  rfl

/-! ## The bounds of a position of the traversal -/

/-- A block that starts at a multiple of its size inside a side it tiles ends inside it. -/
theorem add_le_of_block {b c w : Nat} (hc : b ∣ c) (hw : b ∣ w) (hlt : c < w) : c + b ≤ w := by
  have hrest : b ≤ w - c := Nat.le_of_dvd (Nat.sub_pos_of_lt hlt) (Nat.dvd_sub hw hc)
  omega

/-- A digit below its radix, under a number below `n`, keeps the whole below `n` of that radix. -/
theorem digit_lt {a n d r : Nat} (ha : a < n) (hd : d < r) : a * r + d < n * r := by
  rw [Nat.mul_comm a r]
  exact Nat.mul_add_lt_mul_of_lt_of_lt ha hd

/-- The block of a position of the traversal lies in the sheet (R100). -/
theorem Loop.block_inside {t : Sheet} {l : Loop} (ht : t.tiles = true) (hl : l.inSheet t = true) :
    l.charX + 8 * t.gw ≤ t.w ∧ l.charY + 8 * t.gh ≤ t.h := by
  obtain ⟨-, -, -, -, hbw, hbh⟩ := t.tiles_iff.1 ht
  obtain ⟨hcy, hcyLt, hcx, hcxLt, -⟩ := (l.inSheet_iff t).1 hl
  exact ⟨add_le_of_block hcx hbw hcxLt, add_le_of_block hcy hbh hcyLt⟩

/-- The pixel of a position of the traversal lies in the sheet (R43): within its block, which does. -/
theorem Loop.pixel_inside {t : Sheet} {l : Loop} (ht : t.tiles = true) (hl : l.inSheet t = true) :
    l.pixel.1 < t.w ∧ l.pixel.2 < t.h := by
  obtain ⟨hx, hy⟩ := Loop.block_inside ht hl
  obtain ⟨-, -, -, -, hsy, hsx, hpy, hpx⟩ := (l.inSheet_iff t).1 hl
  simp only [Loop.pixel]
  omega

/-- The bit index of a position of the traversal is below W·H (R100): a mixed-radix numeral with every digit below its
radix, and the radices multiply to NBY·BH·NBX·BW. -/
theorem Loop.bitIndex_lt {t : Sheet} {l : Loop} (ht : t.tiles = true) (hl : l.inSheet t = true) :
    l.bitIndex t < t.w * t.h := by
  obtain ⟨-, -, -, -, hbw, hbh⟩ := t.tiles_iff.1 ht
  obtain ⟨-, hcyLt, -, hcxLt, hsy, hsx, hpy, hpx⟩ := (l.inSheet_iff t).1 hl
  have hglyph : l.glyphIndex t < t.nby * t.nbx :=
    digit_lt (Nat.div_lt_div_of_lt_of_dvd hbh hcyLt) (Nat.div_lt_div_of_lt_of_dvd hbw hcxLt)
  have hw : t.nbx * t.bw = t.w := Nat.div_mul_cancel hbw
  have hh : t.nby * t.bh = t.h := Nat.div_mul_cancel hbh
  calc l.bitIndex t < t.nby * t.nbx * t.gh * t.gw * 8 * 8 :=
        digit_lt (digit_lt (digit_lt (digit_lt hglyph hsy) hsx) hpy) hpx
    _ = t.nbx * t.bw * (t.nby * t.bh) := by rw [Sheet.bw, Sheet.bh]; ring
    _ = t.w * t.h := by rw [hw, hh]

end Sys2Proof.Machine
end

section
/-! PROOFS. Concurrency, the pixel space and the order of the output (20_memory.md). -/

namespace Sys2Proof.Proofs.MemoryModel

open Sys2Proof Sys2Proof.Machine Sys2Proof.Claims

/-- Settles O39: in RUN the position is one of the traversal of a sheet that tiles, so its pixel, its block and its bit
index lie in the sheet; GW and GH are bounded because eight times each fits a 16-bit side. -/
theorem runReadsInsideTheSheet : Obligations.RunReadsInsideTheSheet := by
  intro s h hs
  obtain ⟨ht, hp, -⟩ := s.runInv_iff.1 (h.inRun hs)
  obtain ⟨hpx, hpy⟩ := Loop.pixel_inside ht hp
  obtain ⟨hx, hy⟩ := Loop.block_inside ht hp
  have hgw : 8 * s.geom.gw.toNat < 65536 := (Nat.le_of_add_left_le hx).trans_lt s.geom.imgW.isLt
  have hgh : 8 * s.geom.gh.toNat < 65536 := (Nat.le_of_add_left_le hy).trans_lt s.geom.imgH.isLt
  have hgwMax : s.geom.gw.toNat ≤ 8191 := by omega
  have hghMax : s.geom.gh.toNat ≤ 8191 := by omega
  exact ⟨hpx, hpy, hx, hy, hgwMax, hghMax, Loop.bitIndex_lt ht hp⟩

/-- Settles O41: in RUN CNT = PIX_X (R28), so the PUSH of a STEP fills the group exactly at PIX_X = 7, and a FLUSH after
it finds the group empty. -/
theorem stepEmitsAtTheEndOfAPixelRow : Obligations.StepEmitsAtTheEndOfAPixelRow := by
  intro s t h hs hstep
  obtain ⟨smp, -, rfl⟩ := exec_step_cases hstep
  obtain ⟨hrowEnd, hinRow⟩ := State.processSample_inRow (h.inRun hs).cntIsPixX smp
  rw [val_pixX]
  have hlt := s.pos.pixX.isLt
  exact ⟨fun h7 => ⟨_, (hrowEnd h7).1⟩, fun h7 => (hinRow (by omega)).1⟩

/-- Settles O48: in RUN a host word leaves all but RDATA as it was, and RDATA is no register. -/
theorem hostCannotDisturbARunningCall : Obligations.HostCannotDisturbARunningCall := by
  intro s w rest hs hag
  obtain ⟨v, hexec⟩ := exec_decodeHt_run (s.setAgenda rest) w hs
  exact ⟨_, (step_host hag).trans hexec, fun r _ => State.reg_congr rfl rfl rfl rfl rfl rfl r, fun _ => rfl,
    fun _ => rfl, rfl, rfl, hs⟩

/-- Settles O3: each head of the agenda is decoded at its port, and the word encode gives a well-formed operation
decodes to it. -/
theorem stepRunsTheDecodedOperation : Obligations.StepRunsTheDecodedOperation := by
  refine ⟨fun s w rest => step_host, fun s w rest => step_packer, fun s i rest => step_operation,
    fun s rest => step_sequencer, fun s => step_nil, fun s w i rest he hw hag => ?_, fun s w i rest he hw hag => ?_,
    fun s i rest he hw hag => ?_, fun s i he hw hag => ?_⟩
  all_goals have hi := decodeWord_of_encode he hw
  · exact hi ▸ step_host hag
  · exact hi ▸ step_packer hag
  · exact hi ▸ step_sequencer hag
  · exact hi ▸ step_nil hag

/-- Settles O38: STEP answers the coordinate of its position as a fault where the pixel there is absent, and a next
state where it is present. -/
theorem stepIsStuckWhereThePixelIsAbsent : Obligations.StepIsStuckWhereThePixelIsAbsent := by
  intro s px py
  rw [val_px, val_py]
  constructor
  · intro hfault
    cases hp : pixRead s.pixels s.pos.px s.pos.py with
    | none =>
      rw [exec_step_none hp] at hfault
      cases hfault
      exact ⟨hp, rfl, rfl⟩
    | some smp =>
      rw [exec_step_some hp] at hfault
      cases hfault
  · rintro ⟨habsent, rfl, rfl⟩
    exact exec_step_none habsent

end Sys2Proof.Proofs.MemoryModel
end

section
/-! PROOFS. The encoder undoes the decoder: every word of a port is the word of the operation it decodes to, and that
operation is well-formed (30_encoding.md R72). -/

namespace Sys2Proof

/-- The rows without a bit pattern are those of formats FN and PSEUDO (R72). -/
theorem encode_eq_none_iff (i : Instr) : encode i = none ↔
    (∃ smp, i = .bin smp) ∨ i = .coord ∨ i = .next ∨ i = .wait ∨ ∃ w h gw gh, i = .encode w h gw gh := by
  cases i <;> simp [encode]

/-- `pw` is the word of the well-formed operation `i` (R72). -/
def IsWordOf (pw : PortWord) (i : Instr) : Prop := i.wellFormed = true ∧ encode i = some pw

/-- An HT word with ZERO ≠ 0 is reserved (R61). -/
theorem decodeHt_of_zero_ne {w : BitVec 24} (h : htZero w ≠ 0#3) :
    decodeHt w = .htReserved (htWe w) (htZero w) (htReg w) (htData w) :=
  if_pos h

/-- An HT word with ZERO = 0 and WE = 0 is a read (R60). -/
theorem decodeHt_read (n : Reg) (data : Word) : decodeHt (htWord 0#1 0#3 n.number data) = .rdreg n data := by
  simp [decodeHt]

/-- The word of a command is a write of it to CMD (R63, R64). -/
theorem isWordOf_decodeCommand (data : Word) :
    IsWordOf (.ht (htWord 1#1 0#3 Reg.cmd.number data)) (decodeCommand data) := by
  unfold decodeCommand
  split_ifs with h0 h1 h2
  · exact ⟨rfl, by rw [h0]; rfl⟩
  · exact ⟨rfl, by rw [h1]; rfl⟩
  · exact ⟨rfl, by rw [h2]; rfl⟩
  · exact ⟨by simp [Instr.wellFormed, h0, h1, h2], rfl⟩

/-- An HT word with ZERO = 0 and WE = 1 is a write: a command, the row of one of the four inputs, or the general row
(R60, R62). -/
theorem isWordOf_decodeHt_write (n : Reg) (data : Word) :
    IsWordOf (.ht (htWord 1#1 0#3 n.number data)) (decodeHt (htWord 1#1 0#3 n.number data)) := by
  cases n
  case cmd =>
    have h : decodeHt (htWord 1#1 0#3 Reg.cmd.number data) = decodeCommand data := by simp [decodeHt]
    exact h ▸ isWordOf_decodeCommand data
  all_goals
    simp only [decodeHt, htZero_htWord, htWe_htWord, htReg_htWord, htData_htWord, Reg.ofNumber_number]
    exact ⟨rfl, rfl⟩

/-- Every HT word is the word of the well-formed operation it decodes to. -/
theorem isWordOf_decodeHt (w : BitVec 24) : IsWordOf (.ht w) (decodeHt w) := by
  by_cases hz : htZero w = 0#3
  · obtain ⟨n, hn⟩ : ∃ n : Reg, htReg w = n.number := ⟨_, (Reg.number_ofNumber _).symm⟩
    have hw : w = htWord (htWe w) 0#3 n.number (htData w) := by rw [← hz, ← hn, htWord_fields]
    rw [hw]
    rcases BitVec.eq_zero_or_eq_one (htWe w) with hwe | hwe <;> rw [hwe]
    · rw [decodeHt_read]
      exact ⟨rfl, rfl⟩
    · exact isWordOf_decodeHt_write n _
  · rw [decodeHt_of_zero_ne hz]
    exact ⟨decide_eq_true hz, by rw [encode, htWord_fields]⟩

/-- Every STATE is the SEQ word of the well-formed operation it decodes to (R65). -/
theorem isWordOf_decodeSeq (w : BitVec 2) : IsWordOf (.seq w) (decodeSeq w) := by
  by_cases h : w = 0b01#2
  · rw [h]
    exact ⟨rfl, rfl⟩
  · rw [decodeSeq, if_neg h]
    exact ⟨decide_eq_true h, rfl⟩

/-- Every BPW word is the word of the well-formed operation it decodes to (R67, R68). -/
theorem isWordOf_decodeBpw (w : BitVec 3) : IsWordOf (.bpw w) (decodeBpw w) := by
  unfold IsWordOf
  revert w
  decide

/-- Every word of a port is the word of the well-formed operation it decodes to (R72). -/
theorem isWordOf_decodeWord (pw : PortWord) : IsWordOf pw (decodeWord pw) := by
  cases pw with
  | ht w => exact isWordOf_decodeHt w
  | seq w => exact isWordOf_decodeSeq w
  | bpw w => exact isWordOf_decodeBpw w

/-- An HT word as a number, field by field (R60). -/
theorem htWord_toNat (we : BitVec 1) (zero : BitVec 3) (reg : BitVec 4) (data : Word) :
    (htWord we zero reg data).toNat =
      ((we.toNat * 8 + zero.toNat) * 16 + reg.toNat) * 65536 + data.toNat := by
  have append_toNat {m n : Nat} (x : BitVec m) (y : BitVec n) : (x ++ y).toNat = x.toNat * 2 ^ n + y.toNat := by
    rw [BitVec.toNat_append, ← Nat.shiftLeft_add_eq_or_of_lt y.isLt, Nat.shiftLeft_eq]
  simp only [htWord, append_toNat, Nat.reducePow]

end Sys2Proof
end

section
/-! PROOFS. What a write to one of the four inputs does outside RUN (43_sequencer.md R121). -/

namespace Sys2Proof.Machine

open Sys2Proof Sys2Proof.Claims

/-- The four input writes are one operation, the host write to an input (R121). -/
theorem exec_inputWrite {i : Instr} {n : Reg} {v : Word} (h : InputWrite i n v) (s : State) :
    n.isInput = true ∧ exec i s = .next (s.hostWrite n v) := by
  cases h with
  | general n v hn => exact ⟨hn, rfl⟩
  | imgW | imgH | gw | gh => exact ⟨rfl, rfl⟩

@[simp] theorem Geometry.set_imgW (g : Geometry) (n : Reg) (v : Word) :
    (g.set n v).imgW = if n = .imgW then v else g.imgW := by cases n <;> rfl
@[simp] theorem Geometry.set_imgH (g : Geometry) (n : Reg) (v : Word) :
    (g.set n v).imgH = if n = .imgH then v else g.imgH := by cases n <;> rfl
@[simp] theorem Geometry.set_gw (g : Geometry) (n : Reg) (v : Word) :
    (g.set n v).gw = if n = .gw then v else g.gw := by cases n <;> rfl
@[simp] theorem Geometry.set_gh (g : Geometry) (n : Reg) (v : Word) :
    (g.set n v).gh = if n = .gh then v else g.gh := by cases n <;> rfl

/-- An input reads the value written to it. -/
theorem State.setGeom_set_reg_self (s : State) {n : Reg} (v : Word) (hn : n.isInput = true) :
    (s.setGeom (s.geom.set n v)).reg n = v := by
  cases n
  case imgW | imgH | gw | gh => rfl
  all_goals cases hn

/-- Every other register reads as before. -/
theorem State.setGeom_set_reg_of_ne (s : State) {n r : Reg} (v : Word) (h : r ≠ n) :
    (s.setGeom (s.geom.set n v)).reg r = s.reg r := by
  cases r
  case imgW | imgH | gw | gh => simp [State.reg, h.symm]
  all_goals rfl

end Sys2Proof.Machine
end

section
/-! PROOFS. The encodings and the pseudo-operations (30_encoding.md). -/

namespace Sys2Proof.Proofs.Encoding

open Sys2Proof Sys2Proof.Machine Sys2Proof.Claims

/-- Settles O6: an operation's word decodes to it, and decoding the word's bytes is decoding the word. -/
theorem encodedOperationsDecodeBack : Obligations.EncodedOperationsDecodeBack := by
  intro i hw
  refine ⟨encode_eq_none_iff i, fun pw he => ?_⟩
  have hi : decodeWord pw = i := decodeWord_of_encode he hw
  exact ⟨hi, fun rest => hi ▸ decode_toBytes pw rest⟩

/-- Settles O7: a word decodes to a well-formed operation whose word it is, and it is no other operation's word, since
that would decode to the other one. -/
theorem everyWordHasOneOperation : Obligations.EveryWordHasOneOperation := by
  intro pw
  obtain ⟨hwf, hpw⟩ := isWordOf_decodeWord pw
  refine ⟨hwf, fun i hw => ⟨fun he => (decodeWord_of_encode he hw).symm, ?_⟩⟩
  rintro rfl
  exact hpw

/-- Settles O4: with an empty agenda the sequencer decodes STATE, which is RUN exactly when STATUS reads 0b01. -/
theorem sequencerStepsOnlyInRun : Obligations.SequencerStepsOnlyInRun := by
  intro s hag
  have hrun : val s .status = 0b01 ↔ s.status.bits = 0b01#2 :=
    (WholeMachine.val_status_eq s .run).trans (CallState.bits_eq_run _).symm
  rw [step_nil hag, decodeSeq]
  refine ⟨fun h => by rw [if_pos (hrun.1 h)], fun h => ⟨?_, fun ss => exec_hold ss s⟩⟩
  rw [if_neg (mt hrun.2 h), exec_hold]

/-- Settles O5: the listed words are fixed, so the decoder is evaluated on each. -/
theorem commandWordsDecode : Obligations.CommandWordsDecode := by
  unfold Obligations.CommandWordsDecode
  decide

/-- Settles O8: ZERO ≠ 0 decodes to the reserved operation, whose exec is the state it is given. -/
theorem reservedHostWordIsNoTransaction : Obligations.ReservedHostWordIsNoTransaction := by
  refine ⟨fun we zero reg data s => exec_htReserved we zero reg data s, fun s w rest hz hag => ?_⟩
  have hw := decodeHt_of_zero_ne hz
  refine ⟨⟨_, _, _, _, hw⟩, ?_⟩
  rw [step_host hag, hw, exec_htReserved]
  rfl

/-- Settles O12: outside RUN the host write replaces the one input it names. -/
theorem inputWriteTakesEffectOutsideRun : Obligations.InputWriteTakesEffectOutsideRun := by
  intro s i n v hi hs
  obtain ⟨hn, hexec⟩ := exec_inputWrite hi s
  refine ⟨s.setGeom (s.geom.set n v), ?_, s.setGeom_set_reg_self v hn, fun r hr => ?_, fun _ => rfl, fun _ => rfl,
    rfl, rfl, rfl⟩
  · rw [hexec, State.hostWrite, if_neg hs]
  · exact s.setGeom_set_reg_of_ne v (List.ne_of_not_mem_cons hr)

/-- Settles O50: WAIT records what STATUS reads, whose low two bits are those of STATE, 0b01 in RUN alone. -/
theorem waitReadsStatus : Obligations.WaitReadsStatus := by
  intro s
  refine ⟨_, s.reg .status, exec_wait s, rfl, ?_, ?_, fun r _ => ?_, fun _ => rfl, fun _ => rfl, rfl⟩
  · cases h : s.status <;> simp [State.reg, tableValue, h, CallState.bits]
  · cases h : s.status <;> simp [State.reg, h, CallState.bits]
  · rw [State.setAgenda_reg, State.setRdata_reg]

/-- Settles O51: ENCODE puts its expansion before the agenda, and each of its words is the number of its fields. -/
theorem encodeExpands : Obligations.EncodeExpands := by
  intro s w h gw gh
  exact ⟨_, _, _, _, _, _, exec_encode w h gw gh s, rfl, htWord_toNat _ _ _ _, htWord_toNat _ _ _ _,
    htWord_toNat _ _ _ _, htWord_toNat _ _ _ _, htWord_toNat _ _ _ _, fun r _ => State.setAgenda_reg _ _ r,
    fun _ => rfl, fun _ => rfl, rfl, rfl⟩

end Sys2Proof.Proofs.Encoding
end

section
/-! PROOFS. The threshold rule over the integers, and the exact quotient of R82 against it (40_binarize.md R80, R81). -/

namespace Sys2Proof.Machine

open Sys2Proof

/-- `value < 0.5` fails from the sum 383 on: 2·382 < 765 < 2·383 (R81). -/
theorem belowValueMin_eq_false_iff (smp : Sample) :
    belowValueMin smp = false ↔ 383 ≤ smp.r.toNat + smp.g.toNat + smp.b.toNat := by
  rw [belowValueMin, decide_eq_false_iff_not, Config.valueMinDen, Config.valueMinNum, Config.sumDen]
  omega

/-- The integer form of BIN (R81): bright and opaque. -/
theorem binarize_eq_true_iff (smp : Sample) :
    binarize smp = true ↔ 383 ≤ smp.r.toNat + smp.g.toNat + smp.b.toNat ∧ 128 ≤ smp.a.toNat := by
  have hrule : binarize smp = !(belowValueMin smp || decide (smp.a.toNat < Config.alphaMin)) := rfl
  rw [hrule, Bool.not_eq_true', Bool.or_eq_false_iff, belowValueMin_eq_false_iff, decide_eq_false_iff_not, not_lt,
    Config.alphaMin]

/-- The other bit: dark or transparent. -/
theorem binarize_eq_false_iff (smp : Sample) :
    binarize smp = false ↔ smp.r.toNat + smp.g.toNat + smp.b.toNat < 383 ∨ smp.a.toNat < 128 := by
  rw [← Bool.not_eq_true, binarize_eq_true_iff, not_and_or, not_le, not_le]

/-- The exact quotient of R82 is below 1/2 when twice the sum is below 765, that is, when the sum is below 383. -/
theorem value_lt_half_iff (n : ℕ) : (n : ℚ) / 765 < 1 / 2 ↔ n < 383 := by
  have twice : (n : ℚ) / 765 < 1 / 2 ↔ n * 2 < 765 := by
    rw [div_lt_div_iff₀ (by norm_num) (by norm_num), one_mul]
    norm_cast
  rw [twice]
  omega

/-- No sum gives exactly 1/2: its double would be 765, which is odd (R81). -/
theorem value_ne_half (n : ℕ) : (n : ℚ) / 765 ≠ 1 / 2 := by
  have twice : (n : ℚ) / 765 = 1 / 2 ↔ n * 2 = 765 := by
    rw [div_eq_div_iff (by norm_num) (by norm_num), one_mul]
    norm_cast
  rw [Ne, twice]
  omega

end Sys2Proof.Machine
end

section
/-! PROOFS. The pixel thresholder (40_binarize.md). -/

namespace Sys2Proof.Proofs.Binarize

open Sys2Proof Sys2Proof.Machine Sys2Proof.Claims

/-- Settles O26: BIN only records its bit, and each of the two rational tests for bit 0 is its integer test. -/
theorem binIsTheThresholdRule : Obligations.BinIsTheThresholdRule := by
  intro smp s
  refine ⟨_, binarize smp, exec_bin smp s, rfl, ?_, fun r _ => s.setFnResult_reg _ r, fun _ => rfl, fun _ => rfl,
    rfl, rfl⟩
  have hvalue := value_lt_half_iff (smp.r.toNat + smp.g.toNat + smp.b.toNat)
  have halpha : (smp.a.toNat : ℚ) < 128 ↔ smp.a.toNat < 128 := Nat.cast_lt_ofNat
  have hden : (255 * 3 : ℚ) = 765 := by norm_num
  push_cast at hvalue
  rw [binarize_eq_false_iff, hden, hvalue, halpha]

/-- Settles O27: the bit in its integer form, the parity of 765, and the alpha test alone. -/
theorem binIntegerForm : Obligations.BinIntegerForm := by
  intro smp
  refine ⟨binarize_eq_true_iff smp, ?_, fun ha => (binarize_eq_false_iff smp).2 (.inr ha)⟩
  exact_mod_cast value_ne_half (smp.r.toNat + smp.g.toNat + smp.b.toNat)

end Sys2Proof.Proofs.Binarize
end

section
/-! PROOFS. Positions as mixed-radix numerals: the digits of a bit index, the pixel of a position, and the loop nest
(41_traverse.md R91, R95, R96). -/

namespace Sys2Proof.Machine

open Sys2Proof Sys2Proof.Claims

/-! ## NEXT and the registers -/

/-- The position is read in its six registers alone (R16). -/
theorem State.setPos_reg_of_notMem (s : State) (p : Position) {r : Reg}
    (h : r ∉ [Reg.charY, .charX, .subY, .subX, .pixY, .pixX]) : (s.setPos p).reg r = s.reg r := by
  cases r
  case charY | charX | subY | subX | pixY | pixX => simp at h
  all_goals rfl

/-! ## The sizes of a sheet that tiles -/

/-- A glyph block has a width. -/
theorem Sheet.bw_pos {t : Sheet} (ht : t.tiles = true) : 0 < t.bw := by
  obtain ⟨hgw, -⟩ := t.tiles_iff.1 ht
  exact Nat.mul_pos (by decide) hgw

/-- A glyph block has a height. -/
theorem Sheet.bh_pos {t : Sheet} (ht : t.tiles = true) : 0 < t.bh := by
  obtain ⟨-, hgh, -⟩ := t.tiles_iff.1 ht
  exact Nat.mul_pos (by decide) hgh

/-- The blocks side by side are as wide as the sheet. -/
theorem Sheet.nbx_mul_bw {t : Sheet} (ht : t.tiles = true) : t.nbx * t.bw = t.w := by
  obtain ⟨-, -, -, -, hbw, -⟩ := t.tiles_iff.1 ht
  exact Nat.div_mul_cancel hbw

/-- The blocks one above the other are as high as the sheet. -/
theorem Sheet.nby_mul_bh {t : Sheet} (ht : t.tiles = true) : t.nby * t.bh = t.h := by
  obtain ⟨-, -, -, -, -, hbh⟩ := t.tiles_iff.1 ht
  exact Nat.div_mul_cancel hbh

/-- The radices of the six digits multiply to the number of pixels (R95). -/
theorem Sheet.radices_mul {t : Sheet} (ht : t.tiles = true) : t.nby * t.nbx * t.gh * t.gw * 8 * 8 = t.w * t.h := by
  rw [← Sheet.nbx_mul_bw ht, ← Sheet.nby_mul_bh ht, Sheet.bw, Sheet.bh]
  ring

/-- A glyph index of the traversal is one of NBX·NBY (R98). -/
theorem Loop.glyphIndex_lt {t : Sheet} {l : Loop} (ht : t.tiles = true) (hl : l.inSheet t = true) :
    l.glyphIndex t < t.nby * t.nbx := by
  obtain ⟨-, -, -, -, hbw, hbh⟩ := t.tiles_iff.1 ht
  obtain ⟨-, hcyLt, -, hcxLt, -⟩ := (l.inSheet_iff t).1 hl
  exact digit_lt (Nat.div_lt_div_of_lt_of_dvd hbh hcyLt) (Nat.div_lt_div_of_lt_of_dvd hbw hcxLt)

/-! ## The last position -/

/-- The number of the last block is the number of blocks less one. -/
theorem div_succ_of_last_block {b c w : Nat} (hb : 0 < b) (hc : b ∣ c) (hw : b ∣ w) (hlt : c < w)
    (hle : w ≤ c + b) : c / b + 1 = w / b := by
  rw [← Nat.add_div_right c hb, add_eq_of_last_block hc hw hlt hle]

/-- Where NEXT returns true, every test of its carry chain has failed: each digit is at its last value (R92). -/
theorem Loop.digits_of_last {t : Sheet} {l : Loop} (hn : (l.next t).2 = true) :
    7 ≤ l.pixX ∧ 7 ≤ l.pixY ∧ t.gw ≤ l.subX + 1 ∧ t.gh ≤ l.subY + 1 ∧ t.w ≤ l.charX + t.bw ∧ t.h ≤ l.charY + t.bh := by
  unfold Loop.next at hn
  split_ifs at hn with h1 h2 h3 h4 h5 h6
  exact ⟨not_lt.1 h1, not_lt.1 h2, not_lt.1 h3, not_lt.1 h4, not_lt.1 h5, not_lt.1 h6⟩

/-- The carry out of the slowest digit is W·H (R95). -/
theorem Loop.bitIndex_of_last {t : Sheet} {l : Loop} (ht : t.tiles = true) (hl : l.inSheet t = true)
    (hn : (l.next t).2 = true) : l.bitIndex t + 1 = t.w * t.h := by
  obtain ⟨-, -, -, -, hbw, hbh⟩ := t.tiles_iff.1 ht
  obtain ⟨hcy, hcyLt, hcx, hcxLt, hsy, hsx, hpy, hpx⟩ := (l.inSheet_iff t).1 hl
  obtain ⟨hpxEnd, hpyEnd, hsxEnd, hsyEnd, hcxEnd, hcyEnd⟩ := Loop.digits_of_last hn
  have hsxLast : l.subX + 1 = t.gw := by omega
  have hsyLast : l.subY + 1 = t.gh := by omega
  have hcxLast : l.charX / t.bw + 1 = t.nbx :=
    div_succ_of_last_block (Sheet.bw_pos ht) hcx hbw hcxLt hcxEnd
  have hcyLast : l.charY / t.bh + 1 = t.nby :=
    div_succ_of_last_block (Sheet.bh_pos ht) hcy hbh hcyLt hcyEnd
  have hglyph : l.glyphIndex t + 1 = t.nby * t.nbx := by
    rw [← hcyLast, digit_carry _ hcxLast, Loop.glyphIndex]
  rw [← Sheet.radices_mul ht, ← hglyph, glyph_carry _ hsyLast hsxLast, Loop.bitIndex, Loop.cellIndex]
  omega

/-- NEXT returns true exactly at the last bit index: from any other it goes on to a bit index below W·H (R92). -/
theorem Loop.next_last_iff {t : Sheet} {l : Loop} (ht : t.tiles = true) (hl : l.inSheet t = true) :
    (l.next t).2 = true ↔ l.bitIndex t + 1 = t.w * t.h := by
  refine ⟨Loop.bitIndex_of_last ht hl, fun hlast => ?_⟩
  by_contra hn
  obtain ⟨hin, hsucc⟩ := Loop.next_successor ht hl (Bool.eq_false_of_not_eq_true hn)
  have hlt := Loop.bitIndex_lt ht hin
  omega

/-! ## Position and bit index -/

/-- Dividing by its radix drops the last digit of a numeral. -/
theorem digit_div {d r : Nat} (a : Nat) (hd : d < r) : (a * r + d) / r = a := by
  rw [Nat.mul_comm, Nat.mul_add_div (Nat.zero_lt_of_lt hd), Nat.div_eq_of_lt hd, Nat.add_zero]

/-- The byte of a pixel is the bit index without its last digit (R97). -/
theorem Loop.bitIndex_div (t : Sheet) {l : Loop} (h : l.pixX < 8) : l.bitIndex t / 8 = l.cellIndex t * 8 + l.pixY :=
  digit_div _ h

/-- R95's converse reads each digit of the bit index back. -/
theorem loopOfIndex_bitIndex {t : Sheet} {l : Loop} (ht : t.tiles = true) (hl : l.inSheet t = true) :
    loopOfIndex t (l.bitIndex t) = l := by
  obtain ⟨-, -, -, -, hbw, hbh⟩ := t.tiles_iff.1 ht
  obtain ⟨hcy, hcyLt, hcx, hcxLt, hsy, hsx, hpy, hpx⟩ := (l.inSheet_iff t).1 hl
  have hbx : l.charX / t.bw < t.nbx := Nat.div_lt_div_of_lt_of_dvd hbw hcxLt
  have hrow := Loop.bitIndex_div t hpx
  have hcell : l.bitIndex t / 64 = l.cellIndex t := by
    rw [← Nat.div_div_eq_div_mul _ 8 8, hrow, digit_div _ hpy]
  have hline : l.cellIndex t / t.gw = l.glyphIndex t * t.gh + l.subY := digit_div _ hsx
  have hglyph : l.cellIndex t / (t.gw * t.gh) = l.glyphIndex t := by
    rw [← Nat.div_div_eq_div_mul, hline, digit_div _ hsy]
  have hblockRow : l.glyphIndex t / t.nbx = l.charY / t.bh := digit_div _ hbx
  unfold loopOfIndex
  rw [hcell, hglyph, hline, hrow, hblockRow, Nat.div_mul_cancel hcy, Nat.mul_add_mod_of_lt hsy,
    Nat.mul_add_mod_of_lt hpy, Loop.bitIndex_mod t hpx, Loop.cellIndex, Nat.mul_add_mod_of_lt hsx, Loop.glyphIndex,
    Nat.mul_add_mod_of_lt hbx, Nat.div_mul_cancel hcx]

/-- The digits R95 reads off a number below W·H are each below their radix. -/
theorem inSheet_loopOfIndex {t : Sheet} (ht : t.tiles = true) {n : Nat} (hn : n < t.w * t.h) :
    (loopOfIndex t n).inSheet t = true := by
  obtain ⟨hgw, hgh, hw, -, -, -⟩ := t.tiles_iff.1 ht
  have hnbx : 0 < t.nbx := Nat.pos_of_mul_pos_right (Sheet.nbx_mul_bw ht ▸ hw)
  have hby : n / 64 / (t.gw * t.gh) / t.nbx < t.nby := by
    rw [Nat.div_div_eq_div_mul, Nat.div_div_eq_div_mul]
    apply Nat.div_lt_of_lt_mul
    calc n < t.w * t.h := hn
      _ = t.nby * t.nbx * t.gh * t.gw * 8 * 8 := (Sheet.radices_mul ht).symm
      _ = 64 * (t.gw * t.gh * t.nbx) * t.nby := by ring
  refine (Loop.inSheet_iff _ _).2 ⟨Nat.dvd_mul_left _ _, ?_, Nat.dvd_mul_left _ _, ?_, Nat.mod_lt _ hgh,
    Nat.mod_lt _ hgw, Nat.mod_lt _ (by decide), Nat.mod_lt _ (by decide)⟩
  · calc n / 64 / (t.gw * t.gh) / t.nbx * t.bh < t.nby * t.bh := Nat.mul_lt_mul_of_pos_right hby (Sheet.bh_pos ht)
      _ = t.h := Sheet.nby_mul_bh ht
  · calc n / 64 / (t.gw * t.gh) % t.nbx * t.bw < t.nbx * t.bw :=
          Nat.mul_lt_mul_of_pos_right (Nat.mod_lt _ hnbx) (Sheet.bw_pos ht)
      _ = t.w := Sheet.nbx_mul_bw ht

/-- The numeral of the digits R95 reads off a number is that number. -/
theorem bitIndex_loopOfIndex {t : Sheet} (ht : t.tiles = true) (n : Nat) : (loopOfIndex t n).bitIndex t = n := by
  have hglyph : (loopOfIndex t n).glyphIndex t = n / 64 / (t.gw * t.gh) := by
    simp only [Loop.glyphIndex, loopOfIndex]
    rw [Nat.mul_div_cancel _ (Sheet.bh_pos ht), Nat.mul_div_cancel _ (Sheet.bw_pos ht), Nat.div_add_mod']
  have hcell : (loopOfIndex t n).cellIndex t = n / 64 := by
    rw [Loop.cellIndex, hglyph, ← Nat.div_div_eq_div_mul]
    simp only [loopOfIndex]
    rw [Nat.div_add_mod', Nat.div_add_mod']
  rw [Loop.bitIndex, hcell]
  simp only [loopOfIndex]
  omega

/-! ## Position and pixel -/

/-- On one side of the sheet a coordinate splits in one way into a block, a cell of it and a pixel of that (R96). -/
theorem coordinate_split_iff {g c s p x : Nat} (hg : 0 < g) :
    ((8 * g) ∣ c ∧ s < g ∧ p < 8 ∧ c + s * 8 + p = x) ↔
      c = x / (8 * g) * (8 * g) ∧ s = x % (8 * g) / 8 ∧ p = x % 8 := by
  constructor
  · rintro ⟨⟨b, rfl⟩, hs, hp, rfl⟩
    have hrest : s * 8 + p < 8 * g := by omega
    rw [Nat.mul_comm (8 * g) b, Nat.add_assoc, digit_div _ hrest, Nat.mul_add_mod_of_lt hrest, digit_div _ hp]
    refine ⟨rfl, rfl, ?_⟩
    rw [Nat.mul_left_comm]
    omega
  · rintro ⟨rfl, rfl, rfl⟩
    have hrest : x % (8 * g) < 8 * g := Nat.mod_lt _ (by omega)
    have hsplit := Nat.div_add_mod' x (8 * g)
    have hmod : x % (8 * g) % 8 = x % 8 := Nat.mod_mul_right_mod x 8 g
    exact ⟨Nat.dvd_mul_left _ _, by omega, by omega, by omega⟩

/-- A position names a pixel of the sheet exactly when it is the one R96 gives for it. -/
theorem Loop.pixel_eq_iff {t : Sheet} (ht : t.tiles = true) {px py : Nat} (hpx : px < t.w) (hpy : py < t.h) (l : Loop) :
    (l.inSheet t = true ∧ l.pixel = (px, py)) ↔ l = loopOfPixel t px py := by
  obtain ⟨hgw, hgh, -, -, -, -⟩ := t.tiles_iff.1 ht
  have hx := coordinate_split_iff (c := l.charX) (s := l.subX) (p := l.pixX) (x := px) hgw
  have hy := coordinate_split_iff (c := l.charY) (s := l.subY) (p := l.pixY) (x := py) hgh
  rw [← Sheet.bw] at hx
  rw [← Sheet.bh] at hy
  constructor
  · rintro ⟨hl, hpixel⟩
    obtain ⟨hcy, -, hcx, -, hsy, hsx, hpY, hpX⟩ := (l.inSheet_iff t).1 hl
    obtain ⟨hpx', hpy'⟩ := Prod.mk.inj hpixel
    obtain ⟨hcX, hsX, hpX'⟩ := hx.1 ⟨hcx, hsx, hpX, hpx'⟩
    obtain ⟨hcY, hsY, hpY'⟩ := hy.1 ⟨hcy, hsy, hpY, hpy'⟩
    rw [loopOfPixel, ← hcX, ← hsX, ← hpX', ← hcY, ← hsY, ← hpY']
  · rintro rfl
    obtain ⟨hcx, hsx, hpX, hpx'⟩ := hx.2 ⟨rfl, rfl, rfl⟩
    obtain ⟨hcy, hsy, hpY, hpy'⟩ := hy.2 ⟨rfl, rfl, rfl⟩
    exact ⟨(Loop.inSheet_iff _ _).2 ⟨hcy, by omega, hcx, by omega, hsy, hsx, hpY, hpX⟩, Prod.ext hpx' hpy'⟩

/-! ## The loop nest -/

/-- Two nested loops are one loop over the numbers of two digits. -/
theorem flatMap_range_flatMap_range {α : Type} (a b : Nat) (f : Nat → Nat → List α) :
    ((List.range a).flatMap fun i => (List.range b).flatMap (f i)) =
      (List.range (a * b)).flatMap fun n => f (n / b) (n % b) := by
  induction a with
  | zero => simp
  | succ a ih =>
    have hlast : (List.range b).flatMap (f a) =
        (List.range b).flatMap fun j => f ((a * b + j) / b) ((a * b + j) % b) :=
      List.flatMap_congr fun j hj => by
        have hj := List.mem_range.1 hj
        rw [digit_div a hj, Nat.mul_add_mod_of_lt hj]
    rw [List.range_succ, List.flatMap_append, ih, List.flatMap_singleton, hlast, Nat.succ_mul, List.range_add,
      List.flatMap_append, List.flatMap_map]

/-- The loop nest of R91 is one loop over the bit indices, its digits those of R95. -/
theorem traversal_eq {t : Sheet} (ht : t.tiles = true) :
    traversal t = (List.range (t.w * t.h)).map (loopOfIndex t) := by
  have hcell (n : Nat) : n / 64 = n / 8 / 8 := (Nat.div_div_eq_div_mul n 8 8).symm
  simp only [traversal, List.flatMap_map]
  simp only [List.map_eq_flatMap, ↓flatMap_range_flatMap_range, Sheet.radices_mul ht]
  simp only [loopOfIndex, hcell, ← Nat.div_div_eq_div_mul]

end Sys2Proof.Machine
end

section
/-! PROOFS. The Bit Stream as a function of the bit index, and the order that two geometries share (41_traverse.md
R101). -/

namespace Sys2Proof.Machine

open Sys2Proof

/-- The n-th bit of the stream is that of the pixel of bit index n (R91, R95). -/
theorem bitStream_eq {t : Sheet} (ht : t.tiles = true) (img : Nat → Nat → Sample) :
    bitStream img t = (List.range (t.w * t.h)).map fun n =>
      binarize (img (loopOfIndex t n).pixel.1 (loopOfIndex t n).pixel.2) := by
  rw [bitStream, traversal_eq ht, List.map_map]
  rfl

/-- A side that tiles with a block tiles with one cell. -/
theorem Sheet.tiles_oneCell {t : Sheet} (ht : t.tiles = true) : (⟨t.w, t.h, 1, 1⟩ : Sheet).tiles = true := by
  obtain ⟨-, -, hw, hh, hbw, hbh⟩ := t.tiles_iff.1 ht
  exact (Sheet.tiles_iff _).2 ⟨Nat.one_pos, Nat.one_pos, hw, hh, dvd_of_mul_right_dvd hbw,
    dvd_of_mul_right_dvd hbh⟩

/-- A row of the sheet has GW·NBX cells. -/
theorem Sheet.w_div_eight {t : Sheet} (ht : t.tiles = true) : t.w / 8 = t.gw * t.nbx := by
  rw [← Sheet.nbx_mul_bw ht, Sheet.bw, Nat.mul_left_comm, Nat.mul_div_cancel_left _ (by decide), Nat.mul_comm]

/-- The pixel of bit index `n` where the cells come in raster order on a sheet of width `w`: the cell index is
(py div 8)·(W div 8) + (px div 8) (R101). -/
def rasterPixel (w n : Nat) : Nat × Nat := (n / 64 % (w / 8) * 8 + n % 8, n / 64 / (w / 8) * 8 + n / 8 % 8)

/-- With one row of cells in a block, or one block in a row, the cells come in raster order (R101): GW and NBX are the
digits of one number below W div 8, or GH and NBY those of one number. -/
theorem pixel_loopOfIndex_eq_rasterPixel {t : Sheet} (ht : t.tiles = true) (h : t.gh = 1 ∨ t.nbx = 1) (n : Nat) :
    (loopOfIndex t n).pixel = rasterPixel t.w n := by
  simp only [Loop.pixel, loopOfIndex, rasterPixel, Sheet.w_div_eight ht, Sheet.bw, Sheet.bh]
  rcases h with hgh | hnbx
  · have hx := Nat.mod_mul (x := n / 64) (a := t.gw) (b := t.nbx)
    rw [hx, hgh, Nat.mul_one, Nat.mul_one, Nat.mod_one, ← Nat.div_div_eq_div_mul, Nat.zero_mul, Nat.add_zero]
    refine Prod.ext ?_ rfl
    dsimp only
    ring
  · have hy := Nat.div_add_mod' (n / 64 / t.gw) t.gh
    rw [hnbx, Nat.mod_one, Nat.div_one, Nat.mul_one, Nat.zero_mul, Nat.zero_add, ← Nat.div_div_eq_div_mul]
    refine Prod.ext rfl ?_
    conv_rhs => rw [← hy]
    dsimp only
    ring

/-- An image with one opaque white pixel. -/
def spotImage (p : Nat × Nat) (px py : Nat) : Sample :=
  if (px, py) = p then ⟨255#8, 255#8, 255#8, 255#8⟩ else ⟨0#8, 0#8, 0#8, 0#8⟩

/-- Its bit is 1 at that pixel alone (R80). -/
theorem binarize_spotImage (p q : Nat × Nat) : binarize (spotImage p q.1 q.2) = true ↔ q = p := by
  rw [spotImage]
  split_ifs with h
  · exact iff_of_true (by decide) h
  · exact iff_of_false (by decide) h

/-- Two geometries of a sheet that visit different pixels at one bit index differ in the stream of some image. -/
theorem exists_bitStream_ne {t t' : Sheet} (ht : t.tiles = true) (ht' : t'.tiles = true)
    (hsize : t.w * t.h = t'.w * t'.h) {n : Nat} (hn : n < t.w * t.h)
    (hne : (loopOfIndex t' n).pixel ≠ (loopOfIndex t n).pixel) : ∃ img, bitStream img t ≠ bitStream img t' := by
  refine ⟨spotImage (loopOfIndex t n).pixel, fun heq => hne ?_⟩
  rw [bitStream_eq ht, bitStream_eq ht', ← hsize] at heq
  have hbit := List.map_inj_left.1 heq n (List.mem_range.2 hn)
  rw [← binarize_spotImage, ← hbit, binarize_spotImage]

/-- The first pixel of the second cell row of the first block (R91). -/
def secondCellRow : Loop := ⟨0, 0, 1, 0, 0, 0⟩

/-- It follows the GW cells of the first row. -/
theorem bitIndex_secondCellRow (t : Sheet) : secondCellRow.bitIndex t = t.gw * 64 := by
  simp [secondCellRow, Loop.bitIndex, Loop.cellIndex, Loop.glyphIndex, Nat.mul_assoc]

/-- Where a block has a second cell row, it is a position of the traversal. -/
theorem inSheet_secondCellRow {t : Sheet} (ht : t.tiles = true) (hgh : 2 ≤ t.gh) :
    secondCellRow.inSheet t = true := by
  obtain ⟨hgw, -, hw, hh, -, -⟩ := t.tiles_iff.1 ht
  exact (Loop.inSheet_iff _ _).2 ⟨Nat.dvd_zero _, hh, Nat.dvd_zero _, hw, hgh, hgw, by decide, by decide⟩

/-- In raster order the cell after the first GW of a longer row is still in that row, not below the first. -/
theorem rasterPixel_gw_ne {t : Sheet} (ht : t.tiles = true) (hnbx : 2 ≤ t.nbx) :
    rasterPixel t.w (t.gw * 64) ≠ secondCellRow.pixel := by
  obtain ⟨hgw, -⟩ := t.tiles_iff.1 ht
  have hrow : t.gw % (t.gw * t.nbx) = t.gw := Nat.mod_eq_of_lt (lt_mul_of_one_lt_right hgw hnbx)
  intro h
  have hx : t.gw * 64 / 64 % (t.w / 8) * 8 + t.gw * 64 % 8 = 0 := congrArg Prod.fst h
  rw [Nat.mul_div_cancel _ (by decide), Sheet.w_div_eight ht, hrow] at hx
  omega

end Sys2Proof.Machine
end

section
/-! PROOFS. The cell traversal (41_traverse.md). -/

namespace Sys2Proof.Proofs.Traverse

open Sys2Proof Sys2Proof.Machine Sys2Proof.Claims

/-- Settles O29: NEXT writes the position and the record of `last` alone, and on the registers it is the carry chain
over the naturals. -/
theorem nextFollowsTheCarryChain : Obligations.NextFollowsTheCarryChain := by
  intro s
  obtain ⟨hpos, hlast⟩ := s.pos.advance_loop s.geom
  refine ⟨_, exec_next s, hpos, ?_, fun r hr => ?_, fun _ => rfl, fun _ => rfl, rfl, rfl⟩
  · rw [State.setFnResult_fnResult, hlast]
  · rw [State.setFnResult_reg, State.setPos_reg_of_notMem s _ hr]

/-- Settles O30: NEXT raises the bit index by one unless every digit is at its last value, which is the bit index
W·H − 1. -/
theorem nextIsTheSuccessor : Obligations.NextIsTheSuccessor := by
  intro g p ht hp
  obtain ⟨hpos, hlast⟩ := p.advance_loop g
  refine ⟨?_, ?_, Position.advance_last⟩
  · rw [hpos, hlast]
    exact Loop.next_successor ht hp
  · rw [hlast]
    exact Loop.next_last_iff ht hp

/-- Settles O31: the digits of a numeral and the numeral of the digits (R95). -/
theorem bitIndexAndPositionAreInverse : Obligations.BitIndexAndPositionAreInverse := fun _ ht =>
  ⟨fun _ hl => ⟨Loop.bitIndex_lt ht hl, loopOfIndex_bitIndex ht hl⟩,
    fun n hn => ⟨inSheet_loopOfIndex ht hn, bitIndex_loopOfIndex ht n⟩⟩

/-- Settles O32: each coordinate splits in one way into block, cell and pixel (R96). -/
theorem everyPixelIsVisitedOnce : Obligations.EveryPixelIsVisitedOnce := fun _ ht =>
  ⟨fun _ hl => Loop.pixel_inside ht hl, fun _ _ hpx hpy l => Loop.pixel_eq_iff ht hpx hpy l⟩

/-- Settles O33: the six loops are one loop over the bit indices. -/
theorem loopNestIsTheClosedForm : Obligations.LoopNestIsTheClosedForm := fun _ => traversal_eq

/-- Settles O34: the byte index is the bit index without its last digit, and the cells of glyph g run from g·GH·GW to
before (g+1)·GH·GW. -/
theorem pixelsByteAndGlyph : Obligations.PixelsByteAndGlyph := by
  intro t l ht hl
  obtain ⟨-, -, -, -, hsy, hsx, hpy, hpx⟩ := (l.inSheet_iff t).1 hl
  have hbyte := Loop.bitIndex_div t hpx
  refine ⟨hbyte, Loop.bitIndex_mod t hpx, ?_, ?_, Nat.mul_comm t.nby t.nbx ▸ Loop.glyphIndex_lt ht hl⟩
  · calc 8 * t.gw * t.gh * l.glyphIndex t = l.glyphIndex t * t.gh * t.gw * 8 := by ring
      _ ≤ l.cellIndex t * 8 := Nat.mul_le_mul_right 8
          ((Nat.mul_le_mul_right t.gw (Nat.le_add_right _ l.subY)).trans (Nat.le_add_right _ l.subX))
      _ ≤ l.bitIndex t / 8 := hbyte ▸ Nat.le_add_right _ _
  · calc l.bitIndex t / 8 = l.cellIndex t * 8 + l.pixY := hbyte
      _ < (l.glyphIndex t + 1) * t.gh * t.gw * 8 := digit_lt (digit_lt (digit_lt (Nat.lt_succ_self _) hsy) hsx) hpy
      _ = 8 * t.gw * t.gh * (l.glyphIndex t + 1) := by ring

/-- Settles O35: with GH = 1 or NBX = 1 both streams come in raster order; else the second cell row of the first block
comes right after the first, where raster order goes on in the row. -/
theorem geometriesWithTheSameStream : Obligations.GeometriesWithTheSameStream := by
  intro t ht
  have ht1 := Sheet.tiles_oneCell ht
  have hraster1 := pixel_loopOfIndex_eq_rasterPixel ht1 (.inl rfl)
  refine ⟨fun h img => ?_, fun hgh hnbx => ?_⟩
  · rw [bitStream_eq ht, bitStream_eq ht1]
    simp only [pixel_loopOfIndex_eq_rasterPixel ht h, hraster1]
  · have hl := inSheet_secondCellRow ht hgh
    refine exists_bitStream_ne ht ht1 rfl (Loop.bitIndex_lt ht hl) ?_
    rw [hraster1, loopOfIndex_bitIndex ht hl, bitIndex_secondCellRow]
    exact rasterPixel_gw_ne ht hnbx

/-- Settles O28: COORD only records the pair, and the pair on register reads is that of the fields. -/
theorem coordReturnsThePixel : Obligations.CoordReturnsThePixel := by
  intro s
  refine ⟨_, exec_coord s, ?_, fun r _ => s.setFnResult_reg _ r, fun _ => rfl, fun _ => rfl, rfl, rfl⟩
  rw [val_px, val_py]
  rfl

end Sys2Proof.Proofs.Traverse
end

section
/-! PROOFS. BP8 on the machine's registers, the bits of PACK, and the state of the packer as a function of the bits
pushed so far (42_bitpack.md R105 to R113). -/

namespace Sys2Proof.Machine

open Sys2Proof Sys2Proof.Claims

/-! ## ACC and CNT on register reads -/

/-- ACC reads as the number it holds (R10). -/
theorem val_acc (s : State) : val s .acc = s.packer.acc.toNat := BitVec.toNat_setWidth_of_le (by decide)

/-- CNT reads as the number it holds (R10). -/
theorem val_cnt (s : State) : val s .cnt = s.packer.cnt.toNat := BitVec.toNat_setWidth_of_le (by decide)

/-- Below the eighth bit CNT counts without wrapping (R22). -/
theorem toNat_cnt_succ {cnt : BitVec 3} (h : cnt.toNat < 7) : (cnt + 1#3).toNat = cnt.toNat + 1 := by
  bv_omega

/-- The packer is ACC and CNT and no other register. -/
theorem State.setPacker_reg_of_notMem (s : State) (p : Packer) {r : Reg} (h : r ∉ [Reg.acc, .cnt]) :
    (s.setPacker p).reg r = s.reg r := by
  cases r with
  | acc | cnt => simp at h
  | _ => rfl

/-- A PUSH changes no other register. -/
theorem State.push_reg_of_notMem (s : State) (b : Bool) {r : Reg} (h : r ∉ [Reg.acc, .cnt]) :
    (s.push b).reg r = s.reg r := by
  rw [State.push, State.answer_reg, State.setPacker_reg_of_notMem s _ h]

/-- A FLUSH changes no other register. -/
theorem State.flush_reg_of_notMem (s : State) {r : Reg} (h : r ∉ [Reg.acc, .cnt]) : s.flush.reg r = s.reg r := by
  rw [State.flush, State.answer_reg, State.setPacker_reg_of_notMem s _ h]

/-! ## The operations of BP8's port -/

/-- A pushing operation pushes its bit (R105, R106). -/
theorem exec_of_pushedBit {i : Instr} {b : Bool} (h : pushedBit i = some b) (s : State) :
    exec i s = .next (s.push b) := by
  rcases of_pushedBit h with rfl | rfl
  · cases h; exact exec_push0 s
  · cases h; exact exec_push1 s

/-- What may stand before the FLUSH of a stream pushes a bit or does nothing. -/
theorem exec_of_isPushOrIdle {i : Instr} (h : isPushOrIdle i = true) (s : State) :
    (pushedBit i = none ∧ exec i s = .next s) ∨ ∃ b, pushedBit i = some b ∧ exec i s = .next (s.push b) := by
  cases i with
  | bpidle bit => exact .inl ⟨rfl, exec_bpidle bit s⟩
  | push0 => exact .inr ⟨false, rfl, exec_push0 s⟩
  | push1 => exact .inr ⟨true, rfl, exec_push1 s⟩
  | _ => cases h

/-- A port word with FLUSH = VALID = 0 is BPIDLE (R67). -/
theorem decodeBpw_of_idle : ∀ w : BitVec 3, w.getLsbD 2 = false ∧ w.getLsbD 1 = false →
    decodeBpw w = .bpidle (w.extractLsb' 0 1) := by
  decide

/-- A port word with FLUSH = VALID = 1 is reserved (R68). -/
theorem decodeBpw_of_reserved : ∀ w : BitVec 3, w.getLsbD 2 = true ∧ w.getLsbD 1 = true →
    decodeBpw w = .bpwReserved (w.extractLsb' 0 1) := by
  decide

/-! ## The bits of a stream and of PACK -/

/-- A bit of the stream, or PAD_BIT past its end (R110). -/
theorem streamBit_eq (padBit : Bool) (bits : List Bool) (j : Nat) :
    streamBit padBit bits j = if j < bits.length then bits.getD j false else padBit := by
  unfold streamBit
  split_ifs with h
  · rw [List.getD_eq_getElem _ _ h, List.getD_eq_getElem _ _ h]
  · exact List.getD_eq_default _ _ (Nat.le_of_not_lt h)

/-- Within a stream neither PAD_BIT nor what follows in a longer stream shows. -/
theorem streamBit_of_prefix (padBit padBit' : Bool) {bits bits' : List Bool} (hp : bits <+: bits') {j : Nat}
    (h : j < bits.length) : streamBit padBit bits' j = streamBit padBit' bits j := by
  obtain ⟨more, rfl⟩ := hp
  simp only [streamBit]
  rw [List.getD_append _ _ _ _ h, List.getD_eq_getElem _ _ h, List.getD_eq_getElem _ _ h]

/-- A bit more at the end of the stream is that bit at the index of the old end. -/
theorem streamBit_concat (padBit : Bool) (bits : List Bool) (b : Bool) (j : Nat) :
    streamBit padBit (bits ++ [b]) j = if j = bits.length then b else streamBit padBit bits j := by
  rcases Nat.lt_trichotomy j bits.length with h | rfl | h
  · rw [streamBit_of_prefix padBit padBit (List.prefix_append bits [b]) h, if_neg h.ne]
  · simp [streamBit]
  · simp only [streamBit]
    rw [if_neg h.ne', List.getD_eq_default _ _ h.le, List.getD_eq_default _ _ (by simpa using h)]

/-- A byte is byte k of PACK when it has the group's bits in their places (R110). -/
theorem eq_packByte {o : PackOrder} {padBit : Bool} {bits : List Bool} {k : Nat} {x : Byte}
    (h : ∀ i, i < 8 → x.getLsbD (bitPosition o i) = streamBit padBit bits (8 * k + i)) :
    x = packByte o padBit bits k :=
  byte_ext_bitPosition o fun i hi => (h i hi).trans (packByte_getLsbD o padBit bits k hi).symm

/-- A full group's byte depends neither on PAD_BIT nor on what follows in a longer stream. -/
theorem packByte_of_prefix (o : PackOrder) (padBit padBit' : Bool) {bits bits' : List Bool} (hp : bits <+: bits')
    {k : Nat} (h : k < bits.length / 8) : packByte o padBit bits' k = packByte o padBit' bits k :=
  eq_packByte fun i hi => by
    rw [packByte_getLsbD o _ _ _ hi, streamBit_of_prefix padBit padBit' hp (by omega)]

/-! ## The packer while a stream is pushed -/

/-- The bytes of the full groups of a stream. -/
def fullBytes (o : PackOrder) (bits : List Bool) : List Byte :=
  (List.range (bits.length / 8)).map (packByte o false bits)

/-- The packer after the bits of a stream have been pushed, from empty: CNT counts the bits of the group being filled,
and ACC is its byte with 0 where no bit has come yet (R28). -/
structure Packer.Collects (o : PackOrder) (bits : List Bool) (p : Packer) : Prop where
  cnt : p.cnt.toNat = bits.length % 8
  acc : p.acc = packByte o false bits (bits.length / 8)

/-- The byte of a group with no bit in it is 0. -/
theorem packByte_of_le (o : PackOrder) {bits : List Bool} {k : Nat} (h : bits.length ≤ 8 * k) :
    packByte o false bits k = 0#8 :=
  Eq.symm <| eq_packByte fun i hi => by
    rw [streamBit_eq, if_neg (by omega), BitVec.getLsbD_zero]

/-- An empty packer has collected a stream of full groups. -/
theorem Packer.Collects.empty (o : PackOrder) {bits : List Bool} (h : bits.length % 8 = 0) :
    Packer.empty.Collects o bits where
  cnt := h.symm
  acc := (packByte_of_le o (by omega)).symm

/-- ACC with the next bit of the stream at its place. -/
theorem Packer.Collects.setBit_eq {o : PackOrder} {bits : List Bool} {p : Packer} (h : p.Collects o bits) (b : Bool) :
    setBit p.acc (bitPosition o p.cnt.toNat) b = packByte o false (bits ++ [b]) (bits.length / 8) := by
  refine eq_packByte fun i hi => ?_
  have hplace : bitPosition o i = bitPosition o p.cnt.toNat ↔ 8 * (bits.length / 8) + i = bits.length := by
    rw [bitPosition_inj o hi p.cnt.isLt, h.cnt]
    omega
  rw [getLsbD_setBit _ _ (bitPosition_lt o p.cnt.isLt) (bitPosition_lt o hi), streamBit_concat, h.acc,
    packByte_getLsbD o _ _ _ hi]
  simp only [hplace]

/-- The full groups with a bit more: one more when the bit is the eighth of its group. -/
theorem fullBytes_concat (o : PackOrder) (bits : List Bool) (b : Bool) :
    fullBytes o (bits ++ [b]) = fullBytes o bits ++
      if bits.length % 8 = 7 then [packByte o false (bits ++ [b]) (bits.length / 8)] else [] := by
  have hold : (List.range (bits.length / 8)).map (packByte o false (bits ++ [b])) = fullBytes o bits :=
    List.map_congr_left fun k hk =>
      packByte_of_prefix o false false (List.prefix_append bits [b]) (List.mem_range.1 hk)
  rw [fullBytes, List.length_append, List.length_singleton]
  split_ifs with h
  · rw [show (bits.length + 1) / 8 = bits.length / 8 + 1 by omega, List.range_succ, List.map_append, hold]
    rfl
  · rw [show (bits.length + 1) / 8 = bits.length / 8 by omega, hold, List.append_nil]

/-- A PUSH takes the packer to the stream with the bit more, and answers the byte of a group that is then full (R105,
R106). -/
theorem Packer.Collects.push {o : PackOrder} {bits : List Bool} {p : Packer} (h : p.Collects o bits) (b : Bool) :
    (p.push o b).1.Collects o (bits ++ [b]) ∧
      fullBytes o bits ++ (p.push o b).2.toList = fullBytes o (bits ++ [b]) := by
  have hlen : (bits ++ [b]).length = bits.length + 1 := List.length_append
  have hcnt := h.cnt
  rw [fullBytes_concat, ← h.setBit_eq b, ← hcnt]
  rcases p.push_cases o b with ⟨h7, e⟩ | ⟨h7, e⟩
  · have h7' : p.cnt.toNat = 7 := congrArg BitVec.toNat h7
    rw [e, if_pos h7']
    exact ⟨.empty o (by omega), rfl⟩
  · rw [e, if_neg h7.ne]
    refine ⟨⟨(toNat_cnt_succ h7).trans (by omega), ?_⟩, rfl⟩
    rw [h.setBit_eq b, show (bits ++ [b]).length / 8 = bits.length / 8 by omega]

/-- FLUSH answers the last byte of PACK when a group is partly filled, padded with PAD_BIT (R107, R110). -/
theorem Packer.Collects.flush {o : PackOrder} {bits : List Bool} {p : Packer} (h : p.Collects o bits) (padBit : Bool) :
    fullBytes o bits ++ (p.flush o padBit).2.toList = pack o padBit bits := by
  have hcnt := h.cnt
  have hfull : fullBytes o bits = (List.range (bits.length / 8)).map (packByte o padBit bits) :=
    List.map_congr_left fun k hk => packByte_of_prefix o false padBit List.prefix_rfl (List.mem_range.1 hk)
  rw [hfull, pack]
  rcases p.flush_cases o padBit with ⟨h0, e⟩ | ⟨h0, e⟩
  · have h0' : p.cnt.toNat = 0 := congrArg BitVec.toNat h0
    rw [e, show (bits.length + 7) / 8 = bits.length / 8 by omega]
    exact List.append_nil _
  · have h0' : p.cnt.toNat ≠ 0 := fun h => h0 (BitVec.eq_of_toNat_eq h)
    have hlast : padFrom o padBit p.acc (8 - p.cnt.toNat) = packByte o padBit bits (bits.length / 8) := by
      refine eq_packByte fun i hi => ?_
      rw [getLsbD_padFrom o _ _ (by omega) hi, h.acc, packByte_getLsbD o _ _ _ hi]
      split_ifs with hpad
      · rw [streamBit_eq, if_neg (by omega)]
      · exact streamBit_of_prefix false padBit List.prefix_rfl (by omega)
    rw [e, show (bits.length + 7) / 8 = bits.length / 8 + 1 by omega, List.range_succ, List.map_append, hlast]
    rfl

/-! ## The machine while a stream is pushed -/

/-- OUT has the bytes of the stream's full groups behind `out`, and the packer has the rest of it (R113). -/
def State.HasPushed (s : State) (out : List Byte) (bits : List Bool) : Prop :=
  s.out = out ++ fullBytes Config.hardware.packOrder bits ∧ s.packer.Collects Config.hardware.packOrder bits

/-- PUSH on the machine pushes one bit more of the stream. -/
theorem State.HasPushed.push {s : State} {out : List Byte} {bits : List Bool} (h : s.HasPushed out bits) (b : Bool) :
    (s.push b).HasPushed out (bits ++ [b]) := by
  obtain ⟨hout, hpacker⟩ := h
  obtain ⟨hpushed, hbytes⟩ := hpacker.push b
  refine ⟨?_, ?_⟩
  · rw [State.push, State.answer_out, State.setPacker_out, hout, List.append_assoc, hbytes]
  · rw [State.push, State.answer_packer, State.setPacker_packer]
    exact hpushed

/-- FLUSH on the machine completes PACK of the stream. -/
theorem State.HasPushed.flush_out {s : State} {out : List Byte} {bits : List Bool} (h : s.HasPushed out bits) :
    s.flush.out = out ++ pack Config.hardware.packOrder Config.hardware.padBit bits := by
  obtain ⟨hout, hpacker⟩ := h
  rw [State.flush, State.answer_out, State.setPacker_out, hout, List.append_assoc, hpacker.flush]

/-- One operation that completes, then the rest. -/
theorem execAll_cons {i : Instr} {s t : State} (h : exec i s = .next t) (is : List Instr) :
    execAll (i :: is) s = execAll is t := by
  rw [execAll, h]

/-- Pushing and waiting on BP8's port, and then one FLUSH, complete PACK of the stream so far and the bits pushed. -/
theorem execAll_pushes_flush (bit : BitVec 1) {ops : List Instr} {s : State} {out : List Byte} {bits : List Bool}
    (hops : ops.all isPushOrIdle = true) (h : s.HasPushed out bits) :
    ∃ t, execAll (ops ++ [.flush bit]) s = .next t ∧ t.packer = Packer.empty ∧
      t.out = out ++ pack Config.hardware.packOrder Config.hardware.padBit (bits ++ ops.filterMap pushedBit) := by
  induction ops generalizing s bits with
  | nil => exact ⟨s.flush, rfl, s.flush_packer, by rw [h.flush_out, List.filterMap_nil, List.append_nil]⟩
  | cons i ops ih =>
    rw [List.all_cons, Bool.and_eq_true] at hops
    obtain ⟨hi, hops⟩ := hops
    rw [List.cons_append]
    rcases exec_of_isPushOrIdle hi s with ⟨hnone, hexec⟩ | ⟨b, hsome, hexec⟩
    · rw [execAll_cons hexec, List.filterMap_cons_none hnone]
      exact ih hops h
    · rw [execAll_cons hexec, List.filterMap_cons_some hsome, List.append_cons bits]
      exact ih hops (h.push b)

/-! ## The two orders -/

/-- A byte of PACK under MSB_FIRST is the one under LSB_FIRST with its bits reversed (R114). -/
theorem packByte_msbFirst (padBit : Bool) (bits : List Bool) (k : Nat) :
    packByte .msbFirst padBit bits k = (packByte .lsbFirst padBit bits k).reverse :=
  Eq.symm <| eq_packByte fun i hi => by
    have hplace : 8 - 1 - (7 - i) = bitPosition .lsbFirst i := by simp only [bitPosition]; omega
    rw [BitVec.getLsbD_reverse, BitVec.getMsbD_eq_getLsbD, show bitPosition .msbFirst i = 7 - i from rfl, hplace,
      packByte_getLsbD .lsbFirst _ _ _ hi, decide_eq_true (by omega), Bool.true_and]

/-- A byte of eight equal bits has that bit at every place. -/
theorem getLsbD_equalBits (b : Bool) {j : Nat} (h : j < 8) : (if b then 0xFF#8 else 0x00#8).getLsbD j = b := by
  cases b with
  | false => exact BitVec.getLsbD_zero
  | true => exact (BitVec.getLsbD_allOnes (v := 8)).trans (decide_eq_true h)

end Sys2Proof.Machine
end

section
/-! PROOFS. The bit packer (42_bitpack.md). -/

namespace Sys2Proof.Proofs.BitPack

open Sys2Proof Sys2Proof.Machine Sys2Proof.Claims

/-- Settles O20: the eighth bit emits ACC with the bit in it, an earlier one leaves that in ACC. -/
theorem pushPlacesTheBit : Obligations.PushPlacesTheBit := by
  intro s i b hi
  have hpushed : pushedBit i = some b := by rcases hi with ⟨rfl, rfl⟩ | ⟨rfl, rfl⟩ <;> rfl
  refine ⟨s.push b, setBit s.packer.acc s.packer.cnt.toNat b, exec_of_pushedBit hpushed s, fun j hj => ?_, ?_, ?_,
    fun r => s.push_reg_of_notMem b, fun a => by rw [State.push_pixels],
    s.push_rdata b, s.push_fnResult b, s.push_agenda b⟩
  · rw [val_cnt, getLsbD_setBit _ _ s.packer.cnt.isLt hj]
  all_goals
    simp only [val_cnt, val_acc]
    intro hcnt
  · rcases s.push_cases b with ⟨h, -⟩ | ⟨-, e⟩
    · simp [h] at hcnt
    · rw [e]
      exact ⟨toNat_cnt_succ hcnt, rfl, fun _ => rfl⟩
  · rcases s.push_cases b with ⟨-, e⟩ | ⟨h, -⟩
    · rw [e]
      exact ⟨rfl, rfl, rfl⟩
    · omega

/-- Settles O22: the padding of the places from CNT on, and the empty packer that FLUSH leaves. -/
theorem flushPadsAndEmits : Obligations.FlushPadsAndEmits := by
  intro s bit
  refine ⟨s.flush, exec_flush bit s, by simp [val_acc, Packer.empty], by simp [val_cnt, Packer.empty], ?_, ?_,
    fun r => s.flush_reg_of_notMem, fun a => by rw [State.flush_pixels],
    s.flush_rdata, s.flush_fnResult, s.flush_agenda⟩
  all_goals
    rw [val_cnt]
    intro hcnt
  · rcases s.flush_cases with ⟨-, e⟩ | ⟨h, -⟩
    · intro k
      rw [e, State.setPacker_out]
    · exact absurd (BitVec.eq_of_toNat_eq hcnt) h
  · rcases s.flush_cases with ⟨h, -⟩ | ⟨-, e⟩
    · exact absurd (congrArg BitVec.toNat h) hcnt
    · refine ⟨_, by rw [e]; rfl, fun j hj => ?_⟩
      have hpad := getLsbD_padFrom Config.hardware.packOrder Config.hardware.padBit s.packer.acc
        (show 8 - s.packer.cnt.toNat ≤ 8 by omega) hj
      rw [bitPosition_hardware] at hpad
      rw [hpad, show 8 - (8 - s.packer.cnt.toNat) = s.packer.cnt.toNat by omega]
      split_ifs with h
      · rw [decide_eq_false h.not_gt, Bool.false_and]; rfl
      · rw [decide_eq_true (Nat.lt_of_not_le h), Bool.true_and]

/-- Settles O23: byte k has bit 8k+i of the stream at the place of bit i. -/
theorem packPlacesEveryBit : Obligations.PackPlacesEveryBit := by
  intro o pad bits
  refine ⟨by rw [pack, List.length_map, List.length_range], fun k i hk hi => ?_⟩
  have hbyte : (pack o pad bits).getD k 0#8 = packByte o pad bits k := by simp [pack, hk]
  have hbit := packByte_getLsbD o pad bits k hi
  rw [hbyte, ← streamBit_eq]
  cases o with
  | lsbFirst => exact hbit
  | msbFirst => exact hbit

/-- Settles O24: what OUT and the packer hold after the bits pushed so far, from an empty packer on, and FLUSH. -/
theorem serialPackingIsPack : Obligations.SerialPackingIsPack := by
  intro s ops bit hpacker hops
  have hstart : s.HasPushed s.out [] := ⟨(List.append_nil _).symm, hpacker ▸ .empty _ rfl⟩
  obtain ⟨t, hexec, hempty, hout⟩ := execAll_pushes_flush bit hops hstart
  exact ⟨t, hexec, hout, hempty⟩

/-- Settles O25: place i under one order is place 7 − i under the other, and equal bits are equal at every place. -/
theorem packingOrdersAreBitReversals : Obligations.PackingOrdersAreBitReversals := by
  refine ⟨fun pad bits => ?_, fun o pad b n => ?_⟩
  · rw [pack, pack, List.map_map]
    exact List.map_congr_left fun k _ => packByte_msbFirst pad bits k
  · refine List.eq_replicate_iff.2 ⟨?_, fun x hx => ?_⟩
    · rw [pack, List.length_map, List.length_range, List.length_replicate]
      omega
    · obtain ⟨k, hk, rfl⟩ := List.mem_map.1 hx
      rw [List.mem_range, List.length_replicate] at hk
      refine Eq.symm (eq_packByte fun i hi => ?_)
      rw [getLsbD_equalBits b (bitPosition_lt o hi), streamBit_eq, List.length_replicate, if_pos (by omega),
        List.getD_replicate _ (by omega)]

/-- Settles O10: a port word of either kind decodes to an operation that answers its own state. -/
theorem idleAndReservedPortWordsChangeNothing : Obligations.IdleAndReservedPortWordsChangeNothing := by
  refine ⟨fun bit s => ⟨exec_bpidle bit s, exec_bpwReserved bit s⟩, fun s w rest hag => ?_⟩
  have hidle := decodeBpw_of_idle w
  have hreserved := decodeBpw_of_reserved w
  refine ⟨hidle, hreserved, fun heq => ?_⟩
  rw [step_packer hag]
  cases hvalid : w.getLsbD 1 with
  | false => rw [hidle ⟨heq.trans hvalid, hvalid⟩]; rfl
  | true => rw [hreserved ⟨heq.trans hvalid, hvalid⟩]; rfl

/-- Settles O21: a bit's place in its group under each order, and what a PUSH does with ACC's byte. -/
theorem pushUnderEitherOrder : Obligations.PushUnderEitherOrder := by
  intro o b p
  refine ⟨setBit p.acc (bitPosition o p.cnt.toNat) b, fun j hj => ?_, fun h => ?_, fun h => ?_⟩
  · have hbit := getLsbD_setBit p.acc b (bitPosition_lt o p.cnt.isLt) hj
    cases o with
    | lsbFirst => exact hbit
    | msbFirst => exact hbit
  · rcases p.push_cases o b with ⟨h7, -⟩ | ⟨-, e⟩
    · exact absurd h7 h
    · rw [e]
      exact ⟨rfl, rfl⟩
  · rcases p.push_cases o b with ⟨-, e⟩ | ⟨hlt, -⟩
    · rw [e]
      exact ⟨rfl, rfl⟩
    · simp [h] at hlt

end Sys2Proof.Proofs.BitPack
end

section
/-! PROOFS. A call in progress on an image, turn by turn (43_sequencer.md R127, R136): each turn pushes the bit of its
position, and the turn of the last bit index ends the call. -/

namespace Sys2Proof.Machine

open Sys2Proof Sys2Proof.Claims

/-! ## A sample processed, as PUSH, NEXT and FLUSH -/

/-- Before the last pixel STEP is PUSH and NEXT (R127). -/
theorem State.processSample_of_not_last {s : State} (smp : Sample) (h : (s.pos.advance s.geom).2 = false) :
    s.processSample smp = (s.push (binarize smp)).setPos (s.pos.advance s.geom).1 := by
  simp [State.processSample, h]

/-- On the last pixel FLUSH and STATE <- DONE follow (R127). -/
theorem State.processSample_of_last {s : State} (smp : Sample) (h : (s.pos.advance s.geom).2 = true) :
    s.processSample smp = ((s.push (binarize smp)).setPos (s.pos.advance s.geom).1).flush.setStatus .done := by
  simp [State.processSample, h]

/-! ## One step -/

/-- A step is a run of one. -/
theorem runFor_one {s u : State} (h : step s = .next u) : runFor 1 s = .next u := runFor_succ 0 h

/-! ## The stream up to a bit index -/

/-- The Bit Stream has one bit for each pixel. -/
theorem length_bitStream {t : Sheet} (ht : t.tiles = true) (img : Nat → Nat → Sample) :
    (bitStream img t).length = t.w * t.h := by
  rw [bitStream_eq ht, List.length_map, List.length_range]

/-- The stream up to a position and that position's bit is the stream up to the next bit index. -/
theorem bitStream_take_succ {t : Sheet} {l : Loop} (ht : t.tiles = true) (hl : l.inSheet t = true)
    (img : Nat → Nat → Sample) :
    (bitStream img t).take (l.bitIndex t + 1) =
      (bitStream img t).take (l.bitIndex t) ++ [binarize (img l.pixel.1 l.pixel.2)] := by
  have hlt : l.bitIndex t < (bitStream img t).length := by
    rw [length_bitStream ht]
    exact Loop.bitIndex_lt ht hl
  have hbit : (bitStream img t)[l.bitIndex t] = binarize (img l.pixel.1 l.pixel.2) := by
    simp only [bitStream_eq ht, List.getElem_map, List.getElem_range, loopOfIndex_bitIndex ht hl]
  rw [List.take_succ_eq_append_getElem hlt, hbit]

/-- A sheet that tiles has whole groups of eight pixels. -/
theorem Sheet.eight_dvd_size {t : Sheet} (ht : t.tiles = true) : 8 ∣ t.w * t.h :=
  Sheet.radices_mul ht ▸ Nat.dvd_mul_left 8 _

/-! ## A call in progress -/

/-- A call in RUN at bit index `n` of the sheet `t`, with the image `img` in the pixel space. -/
structure State.InCall (s : State) (img : Nat → Nat → Sample) (t : Sheet) (n : Nat) : Prop where
  running : s.status = .run
  runInv  : s.RunInv
  sheet   : s.geom.sheet = t
  image   : HoldsImage s.pixels img t.w t.h
  index   : s.pos.loop.bitIndex t = n

section
variable {s : State} {img : Nat → Nat → Sample} {t : Sheet} {n : Nat}

/-- The sheet of a call tiles and its position is one of the traversal (R28). -/
theorem State.InCall.traversing (h : s.InCall img t n) : t.tiles = true ∧ s.pos.loop.inSheet t = true := by
  obtain ⟨ht, hl, -⟩ := s.runInv_iff.1 h.runInv
  rw [h.sheet] at ht hl
  exact ⟨ht, hl⟩

/-- The bit index of a call is below W·H (R100). -/
theorem State.InCall.index_lt (h : s.InCall img t n) : n < t.w * t.h := by
  obtain ⟨ht, hl⟩ := h.traversing
  exact h.index ▸ Loop.bitIndex_lt ht hl

/-- The records and the agenda are no part of a call. -/
theorem State.InCall.records (h : s.InCall img t n) (rd : Option Word) (es : List Event) :
    State.InCall { s with rdata := rd, agenda := es } img t n where
  running := h.running
  runInv := { h.runInv with }
  sheet := h.sheet
  image := h.image
  index := h.index

/-- STEP reads the image at its position, which lies in the sheet (R43, R147). -/
theorem State.InCall.exec_step (h : s.InCall img t n) :
    exec .step s = .next (s.processSample (img s.pos.px s.pos.py)) := by
  obtain ⟨ht, hl⟩ := h.traversing
  obtain ⟨hpx, hpy⟩ := Loop.pixel_inside ht hl
  exact exec_step_some (h.image _ hpx _ hpy)

/-- NEXT returns true at the last bit index (R92). -/
theorem State.InCall.last_iff (h : s.InCall img t n) : (s.pos.advance s.geom).2 = true ↔ n + 1 = t.w * t.h := by
  obtain ⟨ht, hl⟩ := h.traversing
  obtain ⟨-, hlast⟩ := s.pos.advance_loop s.geom
  rw [hlast, h.sheet, Loop.next_last_iff ht hl, h.index]

/-- A STEP before the last bit index takes the call to the next one. -/
theorem State.InCall.processSample (h : s.InCall img t n) (hn : n + 1 < t.w * t.h) (smp : Sample) :
    (s.processSample smp).InCall img t (n + 1) := by
  obtain ⟨ht, hl⟩ := h.traversing
  have hlast : (s.pos.advance s.geom).2 = false := Bool.eq_false_of_not_eq_true (mt h.last_iff.1 hn.ne)
  obtain ⟨hloop, hnext⟩ := s.pos.advance_loop s.geom
  rw [h.sheet] at hloop hnext
  obtain ⟨-, hindex⟩ := Loop.next_successor ht hl (hnext ▸ hlast)
  obtain ⟨hgeom, -, -, hpos, hpix, -⟩ := s.processSample_fields smp
  refine ⟨?_, h.runInv.processSample smp hlast, hgeom ▸ h.sheet, hpix ▸ h.image, ?_⟩
  · rw [State.processSample_status, hlast, if_neg Bool.false_ne_true, h.running]
  · rw [hpos, hloop, hindex, h.index]

/-- The STEP of the last bit index leaves DONE, ERR = 0 and a byte in OUT for each group of eight pixels (R56, R127). -/
theorem State.InCall.processSample_last (h : s.InCall img t n) (hn : n + 1 = t.w * t.h) (smp : Sample) :
    (s.processSample smp).status = .done ∧ (s.processSample smp).errWord = 0#4 ∧
      (s.processSample smp).out.length = t.w * t.h / 8 := by
  obtain ⟨ht, hl⟩ := h.traversing
  have hmod : n % 8 = s.pos.pixX.toNat := h.index ▸ Loop.bitIndex_mod t s.pos.pixX.isLt
  have hgroups := Sheet.eight_dvd_size ht
  obtain ⟨hrowEnd, -⟩ := State.processSample_inRow h.runInv.cntIsPixX smp
  obtain ⟨hout, -⟩ := hrowEnd (by omega)
  obtain ⟨-, hcode, hinfo, -⟩ := s.processSample_fields smp
  refine ⟨?_, ?_, ?_⟩
  · rw [State.processSample_status, if_pos (h.last_iff.2 hn)]
  · rw [State.errWord, hcode, hinfo]
    exact h.runInv.noError
  · rw [hout, List.length_append, List.length_singleton, h.runInv.outLength, h.sheet, h.index]
    omega

/-! ## The turns of a call left alone -/

/-- The image a pixel space shows: the samples it has, transparent black elsewhere. -/
def Memory.shownImage (m : Memory) (px py : Nat) : Sample := (pixRead m px py).getD ⟨0#8, 0#8, 0#8, 0#8⟩

/-- Where the whole sheet is present, the pixel space holds the image it shows (R173). -/
theorem State.imagePresent.holdsImage (h : s.imagePresent) :
    HoldsImage s.pixels s.pixels.shownImage s.geom.imgW.toNat s.geom.imgH.toNat := by
  intro px hpx py hpy
  obtain ⟨smp, hsmp⟩ := Option.isSome_iff_exists.1 (h px hpx py hpy)
  rw [Memory.shownImage, hsmp, Option.getD_some]

/-- With nothing else to play, the sequencer's turn in RUN is STEP (R65). -/
theorem State.InCall.step_alone (h : s.InCall img t n) (hag : s.agenda = []) : step s = exec .step s := by
  rw [step_nil hag, h.running]
  rfl

/-- Turns that do not reach the end of the sheet leave the call at the bit index they add up to. -/
theorem State.InCall.runFor_of_lt {k : Nat} (h : s.InCall img t n) (hag : s.agenda = []) (hk : n + k < t.w * t.h) :
    ∃ u, runFor k s = .next u ∧ u.agenda = [] ∧ u.InCall img t (n + k) := by
  induction k generalizing s n with
  | zero => exact ⟨s, rfl, hag, h⟩
  | succ k ih =>
    obtain ⟨-, -, -, -, -, -, -, hag'⟩ := s.processSample_fields (img s.pos.px s.pos.py)
    rw [runFor_succ k ((h.step_alone hag).trans h.exec_step), ← Nat.succ_add_eq_add_succ]
    exact ih (h.processSample (by omega) _) (hag'.trans hag) (by omega)

/-- The turn of the last bit index ends the call (R136). -/
theorem State.InCall.runFor_rest (h : s.InCall img t n) (hag : s.agenda = []) :
    ∃ u, runFor (t.w * t.h - n) s = .next u ∧ u.status = .done ∧ u.out.length = t.w * t.h / 8 := by
  have hn := h.index_lt
  obtain ⟨u, hrun, hagu, hu⟩ := h.runFor_of_lt (k := t.w * t.h - n - 1) hag (by omega)
  obtain ⟨hstatus, -, hlen⟩ := hu.processSample_last (by omega) (img u.pos.px u.pos.py)
  refine ⟨_, ?_, hstatus, hlen⟩
  rw [show t.w * t.h - n = (t.w * t.h - n - 1) + 1 by omega, runFor_add _ 1 hrun]
  exact runFor_one ((hu.step_alone hagu).trans hu.exec_step)

/-! ## A call that encodes -/

/-- A call at bit index `n` that has pushed the first `n` bits of the image's stream since START. -/
structure State.Encoding (s : State) (img : Nat → Nat → Sample) (t : Sheet) (n : Nat) : Prop extends
    s.InCall img t n where
  pushed : s.HasPushed [] ((bitStream img t).take n)

/-- The records and the agenda are no part of a call. -/
theorem State.Encoding.records (h : s.Encoding img t n) (rd : Option Word) (es : List Event) :
    State.Encoding { s with rdata := rd, agenda := es } img t n :=
  ⟨h.toInCall.records rd es, h.pushed⟩

/-- The PUSH of a STEP adds the bit of its position to the stream. -/
theorem State.Encoding.push (h : s.Encoding img t n) :
    (s.push (binarize (img s.pos.px s.pos.py))).HasPushed [] ((bitStream img t).take (n + 1)) := by
  obtain ⟨ht, hl⟩ := h.traversing
  have htake := bitStream_take_succ ht hl img
  rw [h.index] at htake
  exact htake ▸ h.pushed.push _

/-- A STEP before the last bit index pushes one bit more of the stream. -/
theorem State.Encoding.processSample (h : s.Encoding img t n) (hn : n + 1 < t.w * t.h) :
    (s.processSample (img s.pos.px s.pos.py)).Encoding img t (n + 1) := by
  have hlast : (s.pos.advance s.geom).2 = false := Bool.eq_false_of_not_eq_true (mt h.last_iff.1 hn.ne)
  refine ⟨h.toInCall.processSample hn _, ?_⟩
  rw [State.processSample_of_not_last _ hlast]
  exact h.push

/-- The STEP of the last bit index leaves PACK of the whole stream in OUT (R113, R127). -/
theorem State.Encoding.processSample_last_out (h : s.Encoding img t n) (hn : n + 1 = t.w * t.h) :
    (s.processSample (img s.pos.px s.pos.py)).out =
      pack Config.hardware.packOrder Config.hardware.padBit (bitStream img t) := by
  obtain ⟨ht, -⟩ := h.traversing
  have hwhole : (bitStream img t).take (n + 1) = bitStream img t :=
    List.take_of_length_le (by rw [length_bitStream ht, hn])
  have hpushed := h.push
  rw [hwhole] at hpushed
  rw [State.processSample_of_last _ (h.last_iff.2 hn)]
  exact State.HasPushed.flush_out (s := (s.push (binarize (img s.pos.px s.pos.py))).setPos (s.pos.advance s.geom).1)
    hpushed

/-- While a call runs OUT holds the bytes of PACK whose groups are full, and no other (R113). -/
theorem State.Encoding.out_eq (h : s.Encoding img t n) :
    s.out = (pack Config.hardware.packOrder Config.hardware.padBit (bitStream img t)).take (n / 8) := by
  obtain ⟨ht, -⟩ := h.traversing
  obtain ⟨hout, -⟩ := h.pushed
  have hn := h.index_lt
  have hlen : ((bitStream img t).take n).length = n := by
    rw [List.length_take, length_bitStream ht]
    omega
  rw [hout, List.nil_append, fullBytes, hlen, pack, ← List.map_take, List.take_range, length_bitStream ht,
    Nat.min_eq_left (by omega)]
  exact List.map_congr_left fun k hk =>
    (packByte_of_prefix _ _ _ (List.take_prefix n _) (by rw [hlen]; exact List.mem_range.1 hk)).symm

end

end Sys2Proof.Machine
end

section
/-! PROOFS. What START decides is what ENCODE decides, and what host words and sequencer turns do around a call
(43_sequencer.md R121 to R137). -/

namespace Sys2Proof.Machine

open Sys2Proof Sys2Proof.Claims

/-! ## START -/

/-- START's check accepts a sheet that tiles: DONE when it is empty, else RUN (R123). -/
theorem State.checkGeometry_of_mod_eq_zero {s : State} (hgw : s.geom.gw ≠ 0#16) (hgh : s.geom.gh ≠ 0#16)
    (hw : s.geom.imgW.toNat % (8 * s.geom.gw.toNat) = 0) (hh : s.geom.imgH.toNat % (8 * s.geom.gh.toNat) = 0) :
    s.checkGeometry = s.setStatus (if s.geom.imgW = 0#16 ∨ s.geom.imgH = 0#16 then .done else .run) := by
  rw [← doesNotTile_eq_false] at hw hh
  rcases s.checkGeometry_cases with ⟨hcells, -⟩ | ⟨-, -, hmismatch, -⟩ | ⟨-, -, -, -, ⟨hempty, e⟩ | ⟨hw0, hh0, e⟩⟩
  · exact absurd hcells (not_or.2 ⟨hgw, hgh⟩)
  · simp [hw, hh] at hmismatch
  · rw [e, if_pos hempty]
  · rw [e, if_neg (not_or.2 ⟨hw0, hh0⟩)]

/-- A register value is 0 as a number exactly when it is the word 0. -/
theorem toNat_eq_zero_iff (v : Word) : v.toNat = 0 ↔ v = 0#16 :=
  BitVec.toNat_inj (y := 0#16)

/-- A sheet without pixels has an empty stream. -/
theorem bitStream_of_empty {t : Sheet} (img : Nat → Nat → Sample) (h : t.w = 0 ∨ t.h = 0) : bitStream img t = [] := by
  rcases h with h | h <;> simp [bitStream, traversal, Sheet.nbx, Sheet.nby, h]

/-- START's check decides as ENCODE does (R123, R135): it rejects with ENCODE's code, or it accepts where ENCODE is a
byte string, and ends an empty sheet there, whose stream is empty. -/
theorem State.checkGeometry_encodeCall (s : State) (img : Nat → Nat → Sample) :
    (∃ x info, encodeCall img s.geom.sheet = .reject x ∧ s.checkGeometry = s.raise x info) ∨
    (encodeCall img s.geom.sheet =
        .bytes (pack Config.hardware.packOrder Config.hardware.padBit (bitStream img s.geom.sheet)) ∧
      (s.geom.sheet.w * s.geom.sheet.h = 0 ∧ bitStream img s.geom.sheet = [] ∧ s.checkGeometry = s.setStatus .done ∨
        s.geom.sheet.tiles = true ∧ s.checkGeometry = s.setStatus .run)) := by
  have hcellsIff : (s.geom.sheet.gw = 0 ∨ s.geom.sheet.gh = 0) ↔ (s.geom.gw = 0#16 ∨ s.geom.gh = 0#16) :=
    or_congr (toNat_eq_zero_iff _) (toNat_eq_zero_iff _)
  have hmismatchIff : (s.geom.sheet.w % s.geom.sheet.bw ≠ 0 ∨ s.geom.sheet.h % s.geom.sheet.bh ≠ 0) ↔
      (doesNotTile s.geom.imgW s.geom.gw = true ∨ doesNotTile s.geom.imgH s.geom.gh = true) :=
    or_congr (doesNotTile_eq_true _ _).symm (doesNotTile_eq_true _ _).symm
  unfold encodeCall
  simp only [hcellsIff, hmismatchIff]
  rcases s.checkGeometry_cases with ⟨hcells, e⟩ | ⟨hgw, hgh, hmismatch, e⟩ | ⟨hgw, hgh, hw, hh, haccept⟩
  · exact .inl ⟨_, _, if_pos hcells, e⟩
  · exact .inl ⟨_, _, (if_neg (not_or.2 ⟨hgw, hgh⟩)).trans (if_pos hmismatch), e⟩
  refine .inr ⟨(if_neg (not_or.2 ⟨hgw, hgh⟩)).trans (if_neg (by simp [hw, hh])), ?_⟩
  rcases haccept with ⟨hempty, e⟩ | ⟨hw0, hh0, e⟩
  · have hempty' : s.geom.sheet.w = 0 ∨ s.geom.sheet.h = 0 :=
      hempty.imp (toNat_eq_zero_iff _).2 (toNat_eq_zero_iff _).2
    exact .inl ⟨Nat.mul_eq_zero.2 hempty', bitStream_of_empty img hempty', e⟩
  · exact .inr ⟨Geometry.sheet_tiles hgw hgh hw hh hw0 hh0, e⟩

/-- A START at the head of the agenda outside RUN. -/
theorem step_start {s : State} {w : BitVec 24} {rest : List Event} (hs : s.status ≠ .run) (hw : decodeHt w = .start)
    (hag : s.agenda = .host w :: rest) : step s = .next (s.setAgenda rest).beginCall.checkGeometry := by
  rw [step_host hag, hw, exec_start, if_neg]
  exact hs

/-- The first position of a call, with nothing pushed (R31, R93). -/
theorem State.encoding_beginCall {s : State} {img : Nat → Nat → Sample} (ht : s.geom.sheet.tiles = true)
    (himg : HoldsImage s.pixels img s.geom.sheet.w s.geom.sheet.h) :
    (s.beginCall.setStatus .run).Encoding img s.geom.sheet 0 where
  running := rfl
  runInv := (State.runInv_iff _).2 ⟨ht, Loop.inSheet_zero ht, rfl, Packer.unfilledZero_empty _,
    (State.errWord_eq_zero _).2 ⟨rfl, rfl⟩, by simp [Loop.bitIndex_zero]⟩
  sheet := rfl
  image := himg
  index := Loop.bitIndex_zero _
  pushed := ⟨by simp [fullBytes], .empty _ rfl⟩

section
variable {s : State} {img : Nat → Nat → Sample} {t : Sheet} {w : BitVec 24} {rest : List Event}

/-- Where ENCODE rejects, START leaves ERR with its code and OUT empty (R144). -/
theorem step_start_of_reject {x : Exception} (hs : s.status ≠ .run) (ht : s.geom.sheet = t) (hw : decodeHt w = .start)
    (hag : s.agenda = .host w :: rest) (hx : encodeCall img t = .reject x) :
    ∃ u, step s = .next u ∧ u.agenda = rest ∧ u.status = .err ∧ u.errCode = x.code ∧ u.out = [] := by
  subst ht
  rcases (s.setAgenda rest).beginCall.checkGeometry_encodeCall img with ⟨y, info, hy, e⟩ | ⟨hbytes, -⟩
  · obtain rfl : x = y := CallResult.reject.inj (hx.symm.trans hy)
    exact ⟨_, (step_start hs hw hag).trans (congrArg _ e), rfl, rfl, rfl, rfl⟩
  · cases hx.symm.trans hbytes

/-- Where ENCODE is a byte string, that is PACK of the stream, and START ends an empty sheet with it or begins the call
(R31, R123). -/
theorem step_start_of_bytes {bs : List Byte} (hs : s.status ≠ .run) (ht : s.geom.sheet = t)
    (himg : HoldsImage s.pixels img t.w t.h) (hw : decodeHt w = .start) (hag : s.agenda = .host w :: rest)
    (hbs : encodeCall img t = .bytes bs) :
    bs = pack Config.hardware.packOrder Config.hardware.padBit (bitStream img t) ∧
    ∃ u, step s = .next u ∧ u.agenda = rest ∧
      (t.w * t.h = 0 ∧ bs = [] ∧ u.status = .done ∧ u.out = [] ∧ u.errWord = 0#4 ∨ u.Encoding img t 0) := by
  subst ht
  rcases (s.setAgenda rest).beginCall.checkGeometry_encodeCall img with ⟨x, info, hx, -⟩ | ⟨hbytes, haccept⟩
  · cases hbs.symm.trans hx
  obtain rfl := CallResult.bytes.inj (hbs.symm.trans hbytes)
  refine ⟨rfl, ?_⟩
  rcases haccept with ⟨hsize, hempty, e⟩ | ⟨htiles, e⟩
  · refine ⟨_, (step_start hs hw hag).trans (congrArg _ e), rfl,
      .inl ⟨hsize, ?_, rfl, rfl, (State.errWord_eq_zero _).2 ⟨rfl, rfl⟩⟩⟩
    rw [hempty]
    rfl
  · exact ⟨_, (step_start hs hw hag).trans (congrArg _ e), rfl, .inr (State.encoding_beginCall htiles himg)⟩

end

/-! ## Outside RUN -/

/-- Everything a host word can be: one that does nothing, a read, a host write, START or CLEAR (R60 to R64). -/
theorem decodeHt_cases (w : BitVec 24) :
    (∀ s, exec (decodeHt w) s = .next s) ∨ (∃ n data, decodeHt w = .rdreg n data) ∨
    (∃ n v, ∀ s, exec (decodeHt w) s = .next (s.hostWrite n v)) ∨ decodeHt w = .start ∨ decodeHt w = .clear := by
  obtain ⟨-, hword⟩ := isWordOf_decodeHt w
  generalize decodeHt w = i at hword
  cases i with
  | nop => exact .inl exec_nop
  | cmdReserved data => exact .inl (exec_cmdReserved data)
  | htReserved we zero reg data => exact .inl (exec_htReserved we zero reg data)
  | rdreg n data => exact .inr (.inl ⟨n, data, rfl⟩)
  | wrImgW v => exact .inr (.inr (.inl ⟨.imgW, v, exec_wrImgW v⟩))
  | wrImgH v => exact .inr (.inr (.inl ⟨.imgH, v, exec_wrImgH v⟩))
  | wrGw v => exact .inr (.inr (.inl ⟨.gw, v, exec_wrGw v⟩))
  | wrGh v => exact .inr (.inr (.inl ⟨.gh, v, exec_wrGh v⟩))
  | wrreg n v => exact .inr (.inr (.inl ⟨n, v, exec_wrreg n v⟩))
  | start => exact .inr (.inr (.inr (.inl rfl)))
  | clear => exact .inr (.inr (.inr (.inr rfl)))
  | _ => cases hword

/-- `u` has STATE and ERR of `s`. -/
def State.SameVerdict (s u : State) : Prop := u.status = s.status ∧ u.errCode = s.errCode ∧ u.errInfo = s.errInfo

/-- Outside RUN a host word that is no START keeps OUT and does not begin a call, and none but CLEAR changes STATE or
ERR. -/
theorem exec_decodeHt_atRest {s : State} {w : BitVec 24} (hs : s.status ≠ .run) (hw : decodeHt w ≠ .start) :
    ∃ u, exec (decodeHt w) s = .next u ∧ u.agenda = s.agenda ∧ u.out = s.out ∧ u.status ≠ .run ∧
      (decodeHt w ≠ .clear → s.SameVerdict u) := by
  rcases decodeHt_cases w with h | ⟨n, data, h⟩ | ⟨n, v, h⟩ | h | h
  · exact ⟨s, h s, rfl, rfl, hs, fun _ => ⟨rfl, rfl, rfl⟩⟩
  · rw [h, exec_rdreg]
    exact ⟨_, rfl, rfl, rfl, hs, fun _ => ⟨rfl, rfl, rfl⟩⟩
  · rw [h, State.hostWrite, if_neg hs]
    exact ⟨_, rfl, rfl, rfl, hs, fun _ => ⟨rfl, rfl, rfl⟩⟩
  · exact absurd h hw
  · rw [h, exec_clear]
    split_ifs
    · exact ⟨_, rfl, rfl, rfl, by simp, fun hc => absurd rfl hc⟩
    · exact ⟨_, rfl, rfl, rfl, hs, fun _ => ⟨rfl, rfl, rfl⟩⟩

/-- Outside RUN the sequencer's turn is HOLD (R65, R128). -/
theorem step_sequencer_atRest {s : State} {rest : List Event} (hs : s.status ≠ .run)
    (hag : s.agenda = .sequencer :: rest) : step s = .next (s.setAgenda rest) := by
  rw [step_sequencer hag, decodeSeq, if_neg (mt (CallState.bits_eq_run _).1 hs), exec_hold]

/-- Outside RUN an event that starts nothing keeps OUT and does not begin a call, and none but CLEAR changes STATE or
ERR. -/
theorem step_atRest {s : State} {e : Event} {rest : List Event} (hs : s.status ≠ .run) (he : startsNothing e = true)
    (hag : s.agenda = e :: rest) :
    ∃ u, step s = .next u ∧ u.agenda = rest ∧ u.out = s.out ∧ u.status ≠ .run ∧
      (leavesDoneAlone e = true → s.SameVerdict u) := by
  cases e with
  | host w =>
    obtain ⟨u, hexec, hagu, hout, hstatus, hkeep⟩ :=
      exec_decodeHt_atRest (s := s.setAgenda rest) hs (of_decide_eq_true he)
    refine ⟨u, (step_host hag).trans hexec, hagu, hout, hstatus, fun hl => hkeep ?_⟩
    obtain ⟨-, hclear⟩ := Bool.and_eq_true_iff.1 hl
    exact of_decide_eq_true hclear
  | sequencer => exact ⟨_, step_sequencer_atRest hs hag, rfl, rfl, hs, fun _ => ⟨rfl, rfl, rfl⟩⟩
  | packer | operation | reset => cases he

/-- The same over any number of such events. -/
theorem runFor_atRest {s : State} {evs : List Event} (hs : s.status ≠ .run) (hevs : evs.all startsNothing = true)
    (hag : s.agenda = evs) :
    ∃ u, runFor evs.length s = .next u ∧ u.out = s.out ∧ u.status ≠ .run ∧
      (evs.all leavesDoneAlone = true → s.SameVerdict u) := by
  induction evs generalizing s with
  | nil => exact ⟨s, rfl, rfl, hs, fun _ => ⟨rfl, rfl, rfl⟩⟩
  | cons e evs ih =>
    simp only [List.all_cons, Bool.and_eq_true] at hevs ⊢
    obtain ⟨he, hevs⟩ := hevs
    obtain ⟨t, hstep, hagt, hout, hst, hkeep⟩ := step_atRest hs he hag
    obtain ⟨u, hrun, hout', hsu, hkeep'⟩ := ih hst hevs hagt
    refine ⟨u, (runFor_succ _ hstep).trans hrun, hout'.trans hout, hsu, fun ⟨hl, hls⟩ => ?_⟩
    obtain ⟨h1, h2, h3⟩ := hkeep hl
    obtain ⟨h1', h2', h3'⟩ := hkeep' hls
    exact ⟨h1'.trans h1, h2'.trans h2, h3'.trans h3⟩

/-- What leaves DONE and ERR alone starts nothing. -/
theorem startsNothing_of_leavesDoneAlone {evs : List Event} (h : evs.all leavesDoneAlone = true) :
    evs.all startsNothing = true :=
  List.all_eq_true.2 fun e he => by
    have hl := List.all_eq_true.1 h e he
    cases e with
    | host w => exact (Bool.and_eq_true_iff.1 hl).1
    | sequencer => rfl
    | packer | operation | reset => cases hl

/-! ## In RUN -/

section
variable {s : State} {img : Nat → Nat → Sample} {t : Sheet} {n : Nat} {rest : List Event}

/-- The sequencer's turn in a call is STEP (R65). -/
theorem State.Encoding.step_turn (h : s.Encoding img t n) (hag : s.agenda = .sequencer :: rest) :
    step s = .next ((s.setAgenda rest).processSample (img s.pos.px s.pos.py)) := by
  rw [step_sequencer hag, h.running]
  exact (h.toInCall.records s.rdata rest).exec_step

/-- A turn before the last bit index takes the call to the next one. -/
theorem State.Encoding.turn (h : s.Encoding img t n) (hag : s.agenda = .sequencer :: rest) (hn : n + 1 < t.w * t.h) :
    ∃ u, step s = .next u ∧ u.agenda = rest ∧ u.Encoding img t (n + 1) := by
  obtain ⟨-, -, -, -, -, -, -, hagu⟩ := (s.setAgenda rest).processSample_fields (img s.pos.px s.pos.py)
  exact ⟨_, h.step_turn hag, hagu, (h.records s.rdata rest).processSample hn⟩

/-- The turn of the last bit index ends the call with PACK of the stream in OUT (R127). -/
theorem State.Encoding.lastTurn (h : s.Encoding img t n) (hag : s.agenda = .sequencer :: rest)
    (hn : n + 1 = t.w * t.h) :
    ∃ u, step s = .next u ∧ u.agenda = rest ∧ u.status = .done ∧ u.errWord = 0#4 ∧
      u.out = pack Config.hardware.packOrder Config.hardware.padBit (bitStream img t) := by
  obtain ⟨-, -, -, -, -, -, -, hagu⟩ := (s.setAgenda rest).processSample_fields (img s.pos.px s.pos.py)
  have h' : (s.setAgenda rest).Encoding img t n := h.records s.rdata rest
  obtain ⟨hstatus, herr, -⟩ := h'.toInCall.processSample_last hn (img s.pos.px s.pos.py)
  exact ⟨_, h.step_turn hag, hagu, hstatus, herr, h'.processSample_last_out hn⟩

/-- A host word leaves a call where it is (R52). -/
theorem State.Encoding.host {w : BitVec 24} (h : s.Encoding img t n) (hag : s.agenda = .host w :: rest) :
    ∃ u, step s = .next u ∧ u.agenda = rest ∧ u.Encoding img t n := by
  obtain ⟨v, hexec⟩ := exec_decodeHt_run (s.setAgenda rest) w h.running
  exact ⟨_, (step_host hag).trans hexec, rfl, h.records v rest⟩

/-- Any interleaving of host words and turns leaves a call at the bit index its turns add up to, before the last. -/
theorem State.Encoding.runFor_turns {evs : List Event} (h : s.Encoding img t n) (hevs : evs.all hostOrSequencer = true)
    (hag : s.agenda = evs ++ rest) (hn : n + turns evs < t.w * t.h) :
    ∃ u, runFor evs.length s = .next u ∧ u.agenda = rest ∧ u.Encoding img t (n + turns evs) := by
  induction evs generalizing s n with
  | nil => exact ⟨s, rfl, hag, h⟩
  | cons e evs ih =>
    rw [List.all_cons, Bool.and_eq_true] at hevs
    obtain ⟨he, hevs⟩ := hevs
    cases e with
    | host w =>
      have hturns : turns (.host w :: evs) = turns evs := List.count_cons_of_ne (by simp)
      rw [hturns] at hn ⊢
      obtain ⟨v, hstep, hagv, hv⟩ := h.host hag
      obtain ⟨u, hrun, hu⟩ := ih hv hevs hagv hn
      exact ⟨u, (runFor_succ _ hstep).trans hrun, hu⟩
    | sequencer =>
      have hturns : turns (.sequencer :: evs) = turns evs + 1 := List.count_cons_self
      rw [hturns, ← Nat.succ_add_eq_add_succ] at hn ⊢
      obtain ⟨v, hstep, hagv, hv⟩ := h.turn hag (by omega)
      obtain ⟨u, hrun, hu⟩ := ih hv hevs hagv hn
      exact ⟨u, (runFor_succ _ hstep).trans hrun, hu⟩
    | packer | operation | reset => cases he

/-- The interleaving that ends with the turn of the last bit index ends the call. -/
theorem State.Encoding.runFor_allTurns {evs : List Event} (h : s.Encoding img t 0)
    (hevs : evs.all hostOrSequencer = true) (hag : s.agenda = evs ++ rest) (hn : turns evs = t.w * t.h)
    (hlast : evs = [] ∨ evs.getLast? = some .sequencer) :
    ∃ u, runFor evs.length s = .next u ∧ u.agenda = rest ∧ u.status = .done ∧ u.errWord = 0#4 ∧
      u.out = pack Config.hardware.packOrder Config.hardware.padBit (bitStream img t) := by
  have hpos := h.index_lt
  rcases hlast with rfl | hlast
  · exact absurd hn hpos.ne
  obtain ⟨init, rfl⟩ := List.getLast?_eq_some_iff.1 hlast
  have hturns : turns (init ++ [.sequencer]) = turns init + 1 := List.count_append
  rw [List.all_append, Bool.and_eq_true] at hevs
  rw [List.append_assoc] at hag
  obtain ⟨v, hrun, hagv, hv⟩ := h.runFor_turns hevs.1 hag (by omega)
  obtain ⟨u, hstep, hu⟩ := hv.lastTurn hagv (by omega)
  refine ⟨u, ?_, hu⟩
  rw [List.length_append, List.length_singleton, runFor_add _ 1 hrun, runFor_one hstep]

end

end Sys2Proof.Machine
end

section
/-! PROOFS. A whole call under WAIT, and the expansion of ENCODE (30_encoding.md R76). -/

namespace Sys2Proof.Machine

open Sys2Proof Sys2Proof.Claims

/-! ## WAIT -/

/-- WAIT at the head of the agenda: one read of STATUS, and a turn more while the call runs (R76). -/
theorem step_wait {s : State} {rest : List Event} (hag : s.agenda = .operation .wait :: rest) :
    step s = .next { s with
      rdata := some (s.reg .status)
      agenda := if s.status = .run then .sequencer :: .operation .wait :: rest else rest } :=
  (step_operation hag).trans (exec_wait _)

/-- Outside RUN WAIT is over with its first read, the bits of STATE (R12). -/
theorem step_wait_atRest {s : State} {c : CallState} {rest : List Event} (hs : s.status = c) (hc : c ≠ .run)
    (hag : s.agenda = .operation .wait :: rest) :
    step s = .next { s with rdata := some (c.bits.zeroExtend 16), agenda := rest } := by
  rw [step_wait hag, State.reg, hs, if_neg hc]

/-- In a call WAIT goes on after a turn. -/
theorem State.Encoding.wait {s : State} {img : Nat → Nat → Sample} {t : Sheet} {n : Nat} {rest : List Event}
    (h : s.Encoding img t n) (hag : s.agenda = .operation .wait :: rest) :
    ∃ u, step s = .next u ∧ u.agenda = .sequencer :: .operation .wait :: rest ∧ u.Encoding img t n :=
  ⟨_, step_wait hag, if_pos h.running, h.records _ _⟩

/-- WAIT sees a call to its end: a read and a turn for each bit index that is left, and a last read (R76, R136). -/
theorem State.Encoding.runFor_wait {s : State} {img : Nat → Nat → Sample} {t : Sheet} {n k : Nat} {rest : List Event}
    (h : s.Encoding img t n) (hag : s.agenda = .operation .wait :: rest) (hk : n + (k + 1) = t.w * t.h) :
    ∃ u, runFor (2 * (k + 1) + 1) s = .next u ∧ u.status = .done ∧
      u.out = pack Config.hardware.packOrder Config.hardware.padBit (bitStream img t) ∧
      u.rdata = some 2#16 ∧ u.agenda = rest := by
  obtain ⟨v, hwait, hagv, hv⟩ := h.wait hag
  induction k generalizing s n v with
  | zero =>
    obtain ⟨u, hturn, hagu, hstatus, -, hout⟩ := hv.lastTurn hagv hk
    have hread := step_wait_atRest hstatus (by decide) hagu
    exact ⟨_, (runFor_succ 2 hwait).trans ((runFor_succ 1 hturn).trans (runFor_one hread)), hstatus, hout, rfl, rfl⟩
  | succ k ih =>
    obtain ⟨u, hturn, hagu, hu⟩ := hv.turn hagv (by omega)
    obtain ⟨v', hwait', hagv', hv'⟩ := hu.wait hagu
    obtain ⟨z, hrun, hz⟩ := ih hu hagu (by omega) v' hwait' hagv' hv'
    exact ⟨z, (runFor_succ _ hwait).trans ((runFor_succ _ hturn).trans hrun), hz⟩

/-! ## ENCODE -/

/-- The word of an input write at the head of the agenda outside RUN (R121). -/
theorem step_inputWrite {s : State} {i : Instr} {n : Reg} {v : Word} {w : BitVec 24} {rest : List Event}
    (hs : s.status ≠ .run) (hi : InputWrite i n v) (hw : encode i = some (.ht w)) (hwf : i.wellFormed = true)
    (hag : s.agenda = .host w :: rest) :
    ∃ u, step s = .next u ∧ u.status ≠ .run ∧ u.geom = s.geom.set n v ∧ u.pixels = s.pixels ∧ u.agenda = rest := by
  have hdecode : decodeHt w = i := decodeWord_of_encode hw hwf
  obtain ⟨-, hexec⟩ := exec_inputWrite hi (s.setAgenda rest)
  rw [step_host hag, hdecode, hexec, State.hostWrite, if_neg (show (s.setAgenda rest).status ≠ .run from hs)]
  exact ⟨_, rfl, hs, rfl, rfl, rfl⟩

/-- ENCODE and the four writes of its expansion leave the sheet written, with START and WAIT next (R76). -/
theorem runFor_encode_writes {s : State} {w h gw gh : Word} {rest : List Event} (hs : s.status ≠ .run)
    (hag : s.agenda = .operation (.encode w h gw gh) :: rest) :
    ∃ u, runFor 5 s = .next u ∧ u.status ≠ .run ∧ u.geom.sheet = ⟨w.toNat, h.toNat, gw.toNat, gh.toNat⟩ ∧
      u.pixels = s.pixels ∧ u.agenda = .host 0x800001#24 :: .operation .wait :: rest := by
  have hexpand : step s = .next (s.setAgenda (encodeExpansion w h gw gh ++ rest)) :=
    (step_operation hag).trans (exec_encode w h gw gh _)
  obtain ⟨s1, hstep1, hs1, hgeom1, hpix1, hag1⟩ :=
    step_inputWrite (s := s.setAgenda (encodeExpansion w h gw gh ++ rest)) hs (.imgW w) rfl rfl rfl
  obtain ⟨s2, hstep2, hs2, hgeom2, hpix2, hag2⟩ := step_inputWrite hs1 (.imgH h) rfl rfl hag1
  obtain ⟨s3, hstep3, hs3, hgeom3, hpix3, hag3⟩ := step_inputWrite hs2 (.gw gw) rfl rfl hag2
  obtain ⟨s4, hstep4, hs4, hgeom4, hpix4, hag4⟩ := step_inputWrite hs3 (.gh gh) rfl rfl hag3
  refine ⟨s4, ?_, hs4, ?_, hpix4.trans (hpix3.trans (hpix2.trans hpix1)), hag4⟩
  · calc runFor 5 s = runFor 4 _ := runFor_succ 4 hexpand
      _ = runFor 3 s1 := runFor_succ 3 hstep1
      _ = runFor 2 s2 := runFor_succ 2 hstep2
      _ = runFor 1 s3 := runFor_succ 1 hstep3
      _ = .next s4 := runFor_one hstep4
  · rw [hgeom4, hgeom3, hgeom2, hgeom1]
    rfl

/-- PACK of the stream of a sheet that tiles has a byte for each group of eight pixels (R110). -/
theorem length_pack_bitStream {t : Sheet} (ht : t.tiles = true) (img : Nat → Nat → Sample) (o : PackOrder)
    (padBit : Bool) : (pack o padBit (bitStream img t)).length = t.w * t.h / 8 := by
  have hgroups := Sheet.eight_dvd_size ht
  rw [pack, List.length_map, List.length_range, length_bitStream ht]
  omega

end Sys2Proof.Machine
end

section
/-! PROOFS. The registers and the frames of the sequencer's and the host's operations (43_sequencer.md R120 to R127). -/

namespace Sys2Proof.Machine

open Sys2Proof Sys2Proof.Claims

/-! ## Register reads -/

/-- STATUS reads the bits of STATE (R10, R12). -/
theorem val_status (s : State) : val s .status = s.status.bits.toNat := BitVec.toNat_setWidth_of_le (by decide)

/-- ERR reads ERRCODE in bits [1:0] and ERRINFO in bits [3:2] (R10, R20). -/
theorem val_err (s : State) : val s .err = s.errCode.toNat + 4 * s.errInfo.toNat :=
  (BitVec.toNat_setWidth_of_le (by decide)).trans s.errWord_toNat

/-- Every register reads the value the table of R10 gives it. -/
theorem val_eq_tableValue (s : State) (r : Reg) : val s r = tableValue s r := by
  cases r with
  | cmd | fmt | imgW | imgH | gw | gh | charY | charX | subY | subX => rfl
  | status =>
    rw [val_status, tableValue]
    cases s.status <;> rfl
  | err => exact val_err s
  | pixY => exact val_pixY s
  | pixX => exact val_pixX s
  | acc => exact val_acc s
  | cnt => exact val_cnt s

/-! ## Which registers an update leaves alone -/

/-- STATE is read in STATUS alone (R12). -/
theorem State.setStatus_reg_of_ne (s : State) (c : CallState) {r : Reg} (h : r ≠ .status) :
    (s.setStatus c).reg r = s.reg r := by
  cases r with
  | status => exact absurd rfl h
  | _ => rfl

/-- ERRCODE and ERRINFO are read in ERR alone (R20). -/
theorem State.setErr_reg_of_ne (s : State) (code info : BitVec 2) {r : Reg} (h : r ≠ .err) :
    (s.setErr code info).reg r = s.reg r := by
  cases r with
  | err => exact absurd rfl h
  | _ => rfl

/-- The beginning of a call clears the working state and ERR, and no other register (R31). -/
theorem State.beginCall_reg_of_notMem (s : State) {r : Reg} (h : r ∉ .err :: workingRegs) :
    s.beginCall.reg r = s.reg r := by
  cases r with
  | err | charY | charX | subY | subX | pixY | pixX | acc | cnt => exact absurd h (by decide)
  | _ => rfl

/-- At the beginning of a call the working state reads 0 (R31). -/
theorem State.beginCall_workingRegs (s : State) : ∀ r ∈ workingRegs, s.beginCall.reg r = 0#16 := by
  simp [workingRegs, State.reg, Position.zero, Packer.empty]

/-- A sample changes no register but STATUS and the working state (R127). -/
theorem State.processSample_reg_of_notMem (s : State) (smp : Sample) {r : Reg} (h : r ∉ .status :: workingRegs) :
    (s.processSample smp).reg r = s.reg r := by
  have hstatus : r ≠ .status := List.ne_of_not_mem_cons h
  have hworking : r ∉ [Reg.charY, .charX, .subY, .subX, .pixY, .pixX] ++ [Reg.acc, .cnt] :=
    List.not_mem_of_not_mem_cons h
  obtain ⟨hpos, hpacker⟩ := not_or.1 (mt List.mem_append.2 hworking)
  cases hlast : (s.pos.advance s.geom).2 with
  | false =>
    rw [State.processSample_of_not_last smp hlast, State.setPos_reg_of_notMem _ _ hpos,
      State.push_reg_of_notMem _ _ hpacker]
  | true =>
    rw [State.processSample_of_last smp hlast, State.setStatus_reg_of_ne _ _ hstatus,
      State.flush_reg_of_notMem _ hpacker, State.setPos_reg_of_notMem _ _ hpos, State.push_reg_of_notMem _ _ hpacker]

/-! ## The record of a function's result -/

/-- FLUSH reads no record, so it does not matter whether the record is written before it or after it. -/
theorem State.flush_setFnResult (s : State) (r : FnResult) : (s.setFnResult r).flush = s.flush.setFnResult r := by
  rcases s.flush_cases with ⟨h, e⟩ | ⟨h, e⟩ <;> rcases (s.setFnResult r).flush_cases with ⟨h', e'⟩ | ⟨h', e'⟩
  · rw [e, e']; rfl
  · exact absurd h h'
  · exact absurd h' h
  · rw [e, e']; rfl

/-! ## Commands -/

/-- A command that is none of NOP, START and CLEAR is reserved: DATA[1:0] = 0b11 or a bit of DATA[15:2] (R64). -/
theorem decodeHt_reservedCommand {data : Word} (h : data.extractLsb' 0 2 = 0b11#2 ∨ data.extractLsb' 2 14 ≠ 0#14) :
    decodeHt (htWord 1#1 0#3 0#4 data) = .cmdReserved data := by
  have hwf : (Instr.cmdReserved data).wellFormed = true := by
    simp only [Instr.wellFormed, Bool.and_eq_true, decide_eq_true_eq]
    refine ⟨⟨?_, ?_⟩, ?_⟩ <;> (rintro rfl; revert h; decide)
  exact decodeWord_of_encode (i := .cmdReserved data) rfl hwf

end Sys2Proof.Machine
end

section
/-! PROOFS. The sequencer and the whole call (43_sequencer.md). -/

namespace Sys2Proof.Proofs.Sequencer

open Sys2Proof Sys2Proof.Machine Sys2Proof.Claims

/-- The word of START (R63). -/
theorem decodeHt_start : decodeHt 0x800001#24 = .start := by decide

/-- START and an interleaving that ends with the W·H-th turn complete the call (R137). An empty sheet is complete with
START, which is then the whole interleaving. -/
theorem runFor_start_completes {s : State} {img : Nat → Nat → Sample} {bs : List Byte} {evs rest : List Event}
    (hs : s.status ≠ .run) (himg : HoldsImage s.pixels img (val s .imgW) (val s .imgH))
    (hbs : encodeCall img s.geom.sheet = .bytes bs) (hevs : evs.all hostOrSequencer = true)
    (hturns : turns evs = pixelCount s) (hlast : evs = [] ∨ evs.getLast? = some .sequencer)
    (hag : s.agenda = .host 0x800001#24 :: (evs ++ rest)) :
    ∃ u, runFor (1 + evs.length) s = .next u ∧ u.agenda = rest ∧ u.status = .done ∧ u.errWord = 0#4 ∧ u.out = bs := by
  obtain ⟨hpack, v, hstart, hagv, ⟨hsize, hempty, hdone, hout, herr⟩ | hv⟩ :=
    step_start_of_bytes hs rfl himg decodeHt_start hag hbs
  · have hnil : evs = [] := hlast.resolve_right fun h =>
      absurd (hturns.trans hsize) (List.count_pos_iff.2 (List.mem_of_getLast? h)).ne'
    subst hnil
    exact ⟨v, runFor_one hstart, hagv, hdone, herr, hout.trans hempty.symm⟩
  · obtain ⟨u, hrun, hagu, hdone, herr, hout⟩ := hv.runFor_allTurns hevs hagv hturns hlast
    exact ⟨u, (runFor_add 1 _ (runFor_one hstart)).trans hrun, hagu, hdone, herr, hout.trans hpack.symm⟩

/-- Settles O53: START decides as ENCODE does; in RUN the turns push the image's stream and host words change nothing of
the call; outside RUN no event but START touches OUT, and none but START and CLEAR touches STATE or ERR. -/
theorem everyInterleavingComputesEncode : Obligations.EveryInterleavingComputesEncode := by
  intro s img hs himg
  refine ⟨fun bs evs hbs hevs hag hturns => ?_, fun bs evs evs' hbs hevs hturns hlast hevs' hag => ?_,
    fun bs evs evs' hbs hevs hturns hlast hevs' hag => ?_, fun x evs hx hevs hag => ?_, fun x evs hx hevs hag => ?_⟩
  · obtain ⟨hpack, v, hstart, hagv, ⟨hsize, -⟩ | hv⟩ := step_start_of_bytes hs rfl himg decodeHt_start hag hbs
    · exact absurd (hturns.trans_eq hsize) (Nat.not_lt_zero _)
    · have hagv' : v.agenda = evs ++ [] := hagv.trans (List.append_nil evs).symm
      obtain ⟨u, hrun, -, hu⟩ := hv.runFor_turns hevs hagv' ((Nat.zero_add _).trans_lt hturns)
      rw [Nat.zero_add] at hu
      exact ⟨u, (runFor_add 1 _ (runFor_one hstart)).trans hrun, hu.running, hpack ▸ hu.out_eq⟩
  · obtain ⟨v, hcall, hagv, hdone, herr, hout⟩ := runFor_start_completes hs himg hbs hevs hturns hlast hag
    obtain ⟨u, hrun, hout', -, hkeep⟩ :=
      runFor_atRest (by simp [hdone]) (startsNothing_of_leavesDoneAlone hevs') hagv
    obtain ⟨hstatus, hcode, hinfo⟩ := hkeep hevs'
    have herr' : u.errWord = 0#4 := by rw [State.errWord, hcode, hinfo]; exact herr
    have hval : val u .err = 0 := by simp [val, State.reg, herr']
    exact ⟨u, (runFor_add _ _ hcall).trans hrun, hstatus.trans hdone, hout'.trans hout, hval⟩
  · obtain ⟨v, hcall, hagv, hdone, -, hout⟩ := runFor_start_completes hs himg hbs hevs hturns hlast hag
    obtain ⟨u, hrun, hout', hstatus, -⟩ := runFor_atRest (by simp [hdone]) hevs' hagv
    exact ⟨u, (runFor_add _ _ hcall).trans hrun, hstatus, hout'.trans hout⟩
  · obtain ⟨v, hstart, hagv, herr, hcode, hout⟩ := step_start_of_reject hs rfl decodeHt_start hag hx
    obtain ⟨u, hrun, hout', -, hkeep⟩ := runFor_atRest (by simp [herr]) (startsNothing_of_leavesDoneAlone hevs) hagv
    obtain ⟨hstatus, hcode', -⟩ := hkeep hevs
    exact ⟨u, (runFor_add 1 _ (runFor_one hstart)).trans hrun, hstatus.trans herr, hcode'.trans hcode,
      hout'.trans hout⟩
  · obtain ⟨v, hstart, hagv, herr, -, hout⟩ := step_start_of_reject hs rfl decodeHt_start hag hx
    obtain ⟨u, hrun, hout', hstatus, -⟩ := runFor_atRest (by simp [herr]) hevs hagv
    exact ⟨u, (runFor_add 1 _ (runFor_one hstart)).trans hrun, hstatus, hout'.trans hout⟩

/-- Settles O54: after the four writes START decides as ENCODE does, and WAIT sees the call to its end, or reads STATUS
once where START has already ended it. -/
theorem encodeOperationComputesTheAsset : Obligations.EncodeOperationComputesTheAsset := by
  intro s img w h gw gh rest hs himg hag
  obtain ⟨r, hwrites, hr, hsheet, hpix, hagr⟩ := runFor_encode_writes hs hag
  rw [← hpix] at himg
  refine ⟨fun bs hbs => ?_, fun x hx => ?_⟩
  · obtain ⟨hpack, v, hstart, hagv, ⟨hsize, hempty, hdone, hout, -⟩ | hv⟩ :=
      step_start_of_bytes hr hsheet himg decodeHt_start hagr hbs
    · have hread := step_wait_atRest hdone (by decide) hagv
      dsimp only at hsize
      rw [hsize, hempty]
      exact ⟨_, (runFor_add 5 2 hwrites).trans ((runFor_succ 1 hstart).trans (runFor_one hread)), hdone, hout, rfl,
        rfl, rfl⟩
    · obtain ⟨k, hk⟩ : ∃ k, w.toNat * h.toNat = k + 1 := Nat.exists_eq_add_one.2 hv.index_lt
      obtain ⟨u, hrun, hdone, hout, hrdata, hagu⟩ := hv.runFor_wait (k := k) hagv ((Nat.zero_add _).trans hk.symm)
      have hlen := length_pack_bitStream hv.traversing.1 img Config.hardware.packOrder Config.hardware.padBit
      refine ⟨u, ?_, hdone, hout.trans hpack.symm, hpack ▸ hlen, hrdata, hagu⟩
      rw [hk, show 2 * (k + 1) + 7 = 5 + ((2 * (k + 1) + 1) + 1) by omega, runFor_add 5 _ hwrites,
        runFor_succ _ hstart, hrun]
  · obtain ⟨v, hstart, hagv, herr, hcode, hout⟩ := step_start_of_reject hr hsheet decodeHt_start hagr hx
    have hread := step_wait_atRest herr (by decide) hagv
    exact ⟨_, (runFor_add 5 2 hwrites).trans ((runFor_succ 1 hstart).trans (runFor_one hread)), herr, hcode, hout,
      rfl, rfl⟩

/-- Settles O15: the check accepts the sheet on the cleared state, and sets STATE alone. -/
theorem startAcceptsASheetThatTiles : Obligations.StartAcceptsASheetThatTiles := by
  intro s hs hgw hgh hw hh
  have hne {v : Word} (h : 1 ≤ v.toNat) : v ≠ 0#16 := mt (toNat_eq_zero_iff v).2 (Nat.one_le_iff_ne_zero.1 h)
  have haccept := State.checkGeometry_of_mod_eq_zero (s := s.beginCall) (hne hgw) (hne hgh) hw hh
  have hexec := exec_start s
  rw [if_neg hs, haccept] at hexec
  refine ⟨_, hexec, ?_, by rw [val_err]; rfl, fun r hr => ?_, rfl, fun r hr => ?_, fun _ => rfl, rfl, rfl, rfl⟩
  · have hempty : (val s .imgW = 0 ∨ val s .imgH = 0) ↔ (s.geom.imgW = 0#16 ∨ s.geom.imgH = 0#16) :=
      or_congr (toNat_eq_zero_iff _) (toNat_eq_zero_iff _)
    simp only [hempty]
    rw [val_status, State.setStatus_status, State.beginCall_geom]
    split_ifs <;> rfl
  · have hstatus : r ≠ .status := fun h => absurd (h ▸ hr) (by decide)
    rw [val, State.setStatus_reg_of_ne _ _ hstatus, s.beginCall_workingRegs r hr]
    rfl
  · rw [State.setStatus_reg_of_ne _ _ (List.ne_of_not_mem_cons hr),
      s.beginCall_reg_of_notMem (List.not_mem_of_not_mem_cons hr)]

/-- Settles O36: a sample processed is PUSH, NEXT and, at the last position, FLUSH and STATE <- DONE; none of these
reads the record that NEXT writes. -/
theorem stepIsPushNextFlush : Obligations.StepIsPushNextFlush := by
  intro s smp hread
  rw [val_px, val_py] at hread
  have hpushed : pushedBit (if binarize smp then .push1 else .push0) = some (binarize smp) := by
    cases binarize smp <;> rfl
  have hstep := exec_step_some hread
  refine ⟨_, _, (s.pos.advance s.geom).2, exec_of_pushedBit hpushed s, exec_next _, ?_, fun hlast => ?_,
    fun hlast => ⟨_, exec_flush _ _, ?_⟩⟩
  · rw [State.setFnResult_fnResult, State.push_pos, State.push_geom]
  · rw [hstep, State.processSample_of_not_last smp hlast, State.push_pos, State.push_geom, ← s.push_fnResult]
    rfl
  · rw [hstep, State.processSample_of_last smp hlast, State.flush_setFnResult, State.push_pos, State.push_geom,
      ← s.push_fnResult, ← State.setPos_fnResult _ (s.pos.advance s.geom).1, ← State.flush_fnResult]
    rfl

/-- Settles O37: PUSH, NEXT and FLUSH change only their own registers, and of PUSH and FLUSH at most one emits. -/
theorem stepFrame : Obligations.StepFrame := by
  intro s smp hread
  obtain ⟨-, -, -, -, hpix, hrdata, hfn, hag⟩ := s.processSample_fields smp
  refine ⟨_, exec_step_some hread, fun r hr => s.processSample_reg_of_notMem smp hr, s.processSample_out smp, ?_,
    fun a => by rw [hpix], hrdata, hfn, hag⟩
  rw [State.processSample_status]
  split_ifs
  · exact .inr rfl
  · exact .inl rfl

/-- Settles O52: the samples present are an image, and each turn takes the call to the next bit index. -/
theorem runningCallFinishes : Obligations.RunningCallFinishes := by
  intro s hinv hs hpresent hag
  have hcall : s.InCall s.pixels.shownImage s.geom.sheet (s.pos.loop.bitIndex s.geom.sheet) :=
    ⟨hs, hinv.inRun hs, rfl, hpresent.holdsImage, rfl⟩
  refine ⟨fun k hk => ?_, hcall.runFor_rest hag⟩
  obtain ⟨u, hrun, -, hu⟩ := hcall.runFor_of_lt hag (Nat.add_lt_of_lt_sub' hk)
  exact ⟨u, hrun, hu.running⟩

/-- Settles O9: NOP and a reserved command answer the state they are given. -/
theorem nopAndReservedCommandsChangeNothing : Obligations.NopAndReservedCommandsChangeNothing := by
  refine ⟨by decide, exec_nop, exec_cmdReserved, fun s data rest hdata hag => ?_⟩
  have hword := decodeHt_reservedCommand hdata
  refine ⟨hword, ?_⟩
  rw [step_host hag, hword, exec_cmdReserved]
  rfl

/-- Settles O11: RDREG records what the register reads, which is the table's value. -/
theorem rdregReturnsTheRegister : Obligations.RdregReturnsTheRegister :=
  ⟨decodeHt_read, fun s n data => ⟨_, s.reg n, exec_rdreg n data s, rfl, val_eq_tableValue s n,
    fun r _ => s.setRdata_reg _ r, fun _ => rfl, fun _ => rfl, rfl, rfl⟩⟩

/-- Settles O19: in DONE and ERR CLEAR acknowledges the call, in RUN and IDLE it answers its own state. -/
theorem clearAcknowledges : Obligations.ClearAcknowledges := by
  refine ⟨by decide,
    fun s hs => ⟨s.acknowledge, ?_, ?_, ?_, fun r hr => ?_, fun _ => rfl, fun _ => rfl, rfl, rfl, rfl⟩,
    fun s hs => ?_⟩
  · rw [exec_clear, if_pos hs]
  · rw [val_status]; rfl
  · rw [val_err]; rfl
  · rw [State.acknowledge, State.setStatus_reg_of_ne _ _ (List.ne_of_not_mem_cons hr),
      State.setErr_reg_of_ne _ _ _ (List.ne_of_not_mem_cons (List.not_mem_of_not_mem_cons hr))]
  · rw [exec_clear, if_neg]
    rcases hs with hs | hs <;> simp [hs]

end Sys2Proof.Proofs.Sequencer
end

section
/-! PROOFS. The two exceptions: which check of START raises, what taking an exception leaves, and that RUN raises none
(60_exceptions.md). -/

namespace Sys2Proof.Machine

open Sys2Proof Sys2Proof.Claims

/-! ## Which exception START raises -/

/-- CELLS_ZERO is tested first, so the sheet's size does not matter (R141, R143). -/
theorem State.checkGeometry_of_zeroCells {s : State} (h : s.geom.gw = 0#16 ∨ s.geom.gh = 0#16) :
    s.checkGeometry = s.raise .cellsZero (errInfoBits (decide (s.geom.gh = 0#16)) (decide (s.geom.gw = 0#16))) :=
  if_pos h

/-- GEOM_MISMATCH is tested where GW ≥ 1 and GH ≥ 1 (R142). -/
theorem State.checkGeometry_of_mismatch {s : State} (hgw : s.geom.gw ≠ 0#16) (hgh : s.geom.gh ≠ 0#16)
    (h : doesNotTile s.geom.imgW s.geom.gw = true ∨ doesNotTile s.geom.imgH s.geom.gh = true) :
    s.checkGeometry = s.raise .geomMismatch
      (errInfoBits (doesNotTile s.geom.imgH s.geom.gh) (doesNotTile s.geom.imgW s.geom.gw)) :=
  (if_neg (not_or.2 ⟨hgw, hgh⟩)).trans (if_pos h)

/-! ## Taking an exception -/

/-- ERRINFO as a number: the height side weighs 2, the width side 1 (R20). -/
theorem errInfoBits_toNat (height width : Bool) :
    (errInfoBits height width).toNat = 2 * height.toNat + width.toNat := by
  cases height <;> cases width <;> rfl

/-- A flag that says whether a condition holds counts as `one` of it. -/
theorem one_eq_toNat {p : Prop} [Decidable p] {b : Bool} (h : b = true ↔ p) : one p = b.toNat := by
  cases b with
  | false => exact if_neg (mt h.2 Bool.false_ne_true)
  | true => exact if_pos (h.1 rfl)

/-- Taking an exception is read in STATUS and ERR alone (R144). -/
theorem State.raise_reg_of_notMem (s : State) (x : Exception) (info : BitVec 2) {r : Reg}
    (h : r ∉ [Reg.status, .err]) : (s.raise x info).reg r = s.reg r := by
  rw [State.raise, State.setStatus_reg_of_ne _ _ (List.ne_of_not_mem_cons h),
    State.setErr_reg_of_ne _ _ _ (List.ne_of_not_mem_cons (List.not_mem_of_not_mem_cons h))]

/-- ERR after an exception: the code, and a bit for each side that fails (R20, R144). -/
theorem State.raise_val_err (s : State) (x : Exception) (height width : Bool) :
    val (s.raise x (errInfoBits height width)) .err = x.code.toNat + 4 * width.toNat + 8 * height.toNat := by
  rw [val_err, State.raise_errCode, State.raise_errInfo, errInfoBits_toNat]
  omega

/-- A START outside RUN whose check raises: the working state and OUT are cleared before, and the exception sets STATE
and ERR and nothing more (R31, R144). -/
theorem exec_start_of_raise {s : State} {x : Exception} {height width : Bool} (hs : s.status ≠ .run)
    (hraise : s.beginCall.checkGeometry = s.beginCall.raise x (errInfoBits height width)) :
    ∃ t, exec .start s = .next t ∧ val t .status = 3 ∧
      val t .err = x.code.toNat + 4 * width.toNat + 8 * height.toNat ∧
      (∀ r ∈ workingRegs, val t r = 0) ∧ t.out = [] ∧
      SameRegsBut (.status :: .err :: workingRegs) s t ∧ SamePixels s t ∧ SameRecords s t := by
  have hexec := exec_start s
  rw [if_neg hs, hraise] at hexec
  refine ⟨_, hexec, ?_, State.raise_val_err _ x height width, fun r hr => ?_, rfl, fun r hr => ?_, fun _ => rfl,
    rfl, rfl, rfl⟩
  · rw [val_status]
    rfl
  · have hother : r ∉ [Reg.status, .err] := (by decide : ∀ r ∈ workingRegs, r ∉ [Reg.status, .err]) r hr
    rw [val, State.raise_reg_of_notMem _ _ _ hother, s.beginCall_workingRegs r hr]
    rfl
  · have hother : r ∉ [Reg.status, .err] := fun h => hr (List.mem_append_left workingRegs h)
    rw [State.raise_reg_of_notMem _ _ _ hother, s.beginCall_reg_of_notMem (List.not_mem_of_not_mem_cons hr)]

/-! ## No exception in RUN -/

/-- Under the invariant ERR reads 0 in every STATE but ERR (R20). -/
theorem State.Inv.val_err_of_ne {s : State} (h : s.Inv) (hs : s.status ≠ .err) : val s .err = 0 := by
  have herr : s.errWord = 0#4 := not_not.1 (mt h.errExactly.1 hs)
  obtain ⟨hcode, hinfo⟩ := s.errWord_eq_zero.1 herr
  rw [val_err, hcode, hinfo]
  rfl

/-- A sample processed in RUN leaves RUN or DONE (R127). -/
theorem State.processSample_run_or_done {s : State} (hs : s.status = .run) (smp : Sample) :
    (s.processSample smp).status = .run ∨ (s.processSample smp).status = .done := by
  rw [State.processSample_status, hs]
  split_ifs
  · exact .inr rfl
  · exact .inl rfl

end Sys2Proof.Machine
end

section
/-! PROOFS. The exceptions (60_exceptions.md). -/

namespace Sys2Proof.Proofs.Exceptions

open Sys2Proof Sys2Proof.Machine Sys2Proof.Claims

/-- Settles O16: the check of the cleared state stops at CELLS_ZERO, whose flags say which of GW and GH is 0. -/
theorem startRejectsZeroCells : Obligations.StartRejectsZeroCells := by
  intro s hs hcells
  have hgw : decide (s.geom.gw = 0#16) = true ↔ val s .gw = 0 := decide_eq_true_iff.trans (toNat_eq_zero_iff _).symm
  have hgh : decide (s.geom.gh = 0#16) = true ↔ val s .gh = 0 := decide_eq_true_iff.trans (toNat_eq_zero_iff _).symm
  have hcells' : s.geom.gw = 0#16 ∨ s.geom.gh = 0#16 := hcells.imp (toNat_eq_zero_iff _).1 (toNat_eq_zero_iff _).1
  rw [one_eq_toNat hgw, one_eq_toNat hgh]
  exact exec_start_of_raise hs (State.checkGeometry_of_zeroCells (s := s.beginCall) hcells')

/-- Settles O17: the check of the cleared state passes CELLS_ZERO and stops at GEOM_MISMATCH, whose flags say which
side does not tile. -/
theorem startRejectsASheetThatDoesNotTile : Obligations.StartRejectsASheetThatDoesNotTile := by
  intro s hs hgw hgh hsides
  have hne {v : Word} (h : 1 ≤ v.toNat) : v ≠ 0#16 := mt (toNat_eq_zero_iff v).2 (Nat.one_le_iff_ne_zero.1 h)
  have hwidth : doesNotTile s.geom.imgW s.geom.gw = true ↔ val s .imgW % (8 * val s .gw) ≠ 0 :=
    doesNotTile_eq_true _ _
  have hheight : doesNotTile s.geom.imgH s.geom.gh = true ↔ val s .imgH % (8 * val s .gh) ≠ 0 :=
    doesNotTile_eq_true _ _
  rw [one_eq_toNat hwidth, one_eq_toNat hheight]
  exact exec_start_of_raise hs
    (State.checkGeometry_of_mismatch (s := s.beginCall) (hne hgw) (hne hgh) (hsides.imp hwidth.2 hheight.2))

/-- Settles O40: the call reads a pixel of its sheet, the sample takes it to RUN or DONE, and the invariant, which STEP
keeps, has ERR = 0 in both. -/
theorem noExceptionInRun : Obligations.NoExceptionInRun := by
  intro s hinv hs hpresent
  have hcall : s.InCall s.pixels.shownImage s.geom.sheet (s.pos.loop.bitIndex s.geom.sheet) :=
    ⟨hs, hinv.inRun hs, rfl, hpresent.holdsImage, rfl⟩
  have hstatus := State.processSample_run_or_done hs (s.pixels.shownImage s.pos.px s.pos.py)
  refine ⟨_, hcall.exec_step, hstatus, (hinv.processSample hs _).val_err_of_ne ?_⟩
  rcases hstatus with h | h <;> simp [h]

end Sys2Proof.Proofs.Exceptions
end

section
/-! PROOFS. What a reset leaves, and what holds in IDLE (70_reset_and_hazards.md R160, R161). -/

namespace Sys2Proof.Machine

open Sys2Proof Sys2Proof.Claims

/-- A reset at the head of the agenda (R160). -/
theorem step_reset {s : State} {rest : List Event} (h : s.agenda = .reset :: rest) :
    step s = .next (s.setAgenda rest).blockReset :=
  step_of_fetch_reset (fetch_cons h)

/-- Reset leaves every register 0, whatever it held (R160). -/
theorem State.blockReset_val (s : State) (r : Reg) : val s.blockReset r = 0 := by
  rw [val_eq_tableValue]
  cases r <;> rfl

/-- In IDLE the three outputs are 0 (R23). -/
theorem State.outputs_of_idle {s : State} (h : s.status = .idle) :
    s.busy = false ∧ s.done = false ∧ s.err = false := by
  simp [State.busy, State.done, State.err, h]

/-- In IDLE the sequencer performs HOLD (R65). -/
theorem State.sequencerInstr_of_idle {s : State} (h : s.status = .idle) : s.sequencerInstr = .hold 0b00#2 := by
  rw [State.sequencerInstr, h]
  rfl

end Sys2Proof.Machine
end

section
/-! PROOFS. Reset, and a START in RUN (70_reset_and_hazards.md). -/

namespace Sys2Proof.Proofs.ResetAndHazards

open Sys2Proof Sys2Proof.Machine Sys2Proof.Claims

/-- Settles O2: a step at a reset answers the reset block with the agenda's head taken off; its STATE is IDLE, which
sets the outputs and the sequencer's next operation. -/
theorem resetFromAnyState : Obligations.ResetFromAnyState := by
  intro s rest hag
  have hidle : (s.setAgenda rest).blockReset.status = .idle := State.blockReset_status _
  obtain ⟨hbusy, hdone, herr⟩ := State.outputs_of_idle hidle
  exact ⟨_, step_reset hag, State.blockReset_val _, hidle, State.blockReset_out _, hbusy, hdone, herr,
    fun _ => rfl, State.sequencerInstr_of_idle hidle, rfl, rfl, rfl⟩

/-- Settles O14: of START's two cases (R123), RUN is the one that keeps the state. -/
theorem startInRunIsDropped : Obligations.StartInRunIsDropped := by
  intro s hs
  rw [exec_start, if_pos hs]

end Sys2Proof.Proofs.ResetAndHazards
end
